-- ==== Sys2Proof/Word.lean ====
section
/-! DEFINITION. The word types of the block: bytes, the integer widths the block moves (20_memory.md R56), buffers and
strings. -/

namespace Sys2Proof

/-- A byte (R12). -/
abbrev Byte := BitVec 8

/-- A 16-bit unsigned integer: ports, lengths, checksums, windows (R56). -/
abbrev U16 := BitVec 16

/-- A 32-bit unsigned integer: sequence numbers and the TCB counters (R56, R218). -/
abbrev U32 := BitVec 32

/-- A buffer: a finite sequence of bytes indexed from 0 (R13). -/
abbrev Buffer := List Byte

/-- A string operand or result, as its sequence of 8-bit character codes.
DESIGN CHOICE (log entry 9): the spec gives a string no element type. -/
abbrev Text := List Byte

end Sys2Proof
end

