-- ==== Sys2Proof/Config.lean ====
section
/-! DEFINITION. The implementation parameters of 00_scope.md R10, each under its own name, and the two values that the
environment or the missing source text leaves open (free values, no body). -/

namespace Sys2Proof.Config

/-- `ARP_LEN` (R10): the length of an ARP message. -/
def arpLen : Nat := 28

/-- `IP_HDR_LEN` (R10). -/
def ipHdrLen : Nat := 20

/-- `TCP_HDR_LEN` (R10). -/
def tcpHdrLen : Nat := 20

/-- `IP_VERSION` (R10). -/
def ipVersion : BitVec 4 := 4

/-- `IP_IHL` (R10). -/
def ipIhl : BitVec 4 := 5

/-- `IP_TOS` (R10). -/
def ipTos : Byte := 0

/-- `IP_FRAG` (R10). -/
def ipFrag : U16 := 0

/-- `IP_TTL_INIT` (R10). -/
def ipTtlInit : Byte := 32

/-- `IP_PROTO_TCP` (R10). -/
def ipProtoTcp : Byte := 6

/-- `ISN_TICK_US` (R10): microseconds per tick of the initial sequence number. -/
def isnTickUs : Nat := 4

/-- `IP_BODY_MAX` (R10). -/
def ipBodyMax : Nat := 65515

/-- `TCP_SEG_MAX` (R10). -/
def tcpSegMax : Nat := 65515

/-- The first buffer length that `CKSUM16` has no meaning for (93_implementation_defined.md U9). -/
def cksumLimit : Nat := 131072

/-- `ARP_HTYPE` (R10). PRESUMED (log entry 7): the spec marks the number as general knowledge. -/
def arpHtype : U16 := 1

/-- `ARP_PTYPE` (R10). PRESUMED (log entry 7). -/
def arpPtype : U16 := 0x0800

/-- `ARP_HLEN` (R10). -/
def arpHlen : Byte := 6

/-- `ARP_PLEN` (R10). -/
def arpPlen : Byte := 4

/-- `ARP_OP_REQUEST` (R10). PRESUMED (log entry 7). -/
def arpOpRequest : U16 := 1

/-- `ARP_OP_REPLY` (R10): never tested by the block. PRESUMED (log entry 7). -/
def arpOpReply : U16 := 2

/-- `TCB_RESET_OTHER` (R10, D13): the reset value of the seven counters for which the source gives no evidence.
DESIGN CHOICE of the spec (log entry 6). -/
def tcbResetOther : U32 := 0

/-- `IP_ID_SENTINEL` (R10, D11): OPEN, "a constant sentinel value". A free value: a statement about it holds for every
16-bit number (log entry 5). -/
opaque ipIdSentinel : U16

/-- The time of day, in microseconds since midnight UTC, that the environment's clock shows when the block is powered on
(R270: "for some `t_us` the environment draws"). A free value (log entry 4). -/
opaque powerOnTime : Nat

end Sys2Proof.Config
end

