-- ==== Sys2Proof/Syntax.lean ====
section
/-! DEFINITION. The record types the host passes and receives (10_state.md R34 to R38), the field selectors of the `GET`
operations, and the one inductive `Instr`: a constructor for each row of spec/opcode_table.json. -/

namespace Sys2Proof

/-- The `kind` operand of the address family (R110). -/
inductive AddrKind where
  | ip
  | mac
  deriving DecidableEq, Repr

/-- `bytes[4]`: exactly four bytes, index 0 first. -/
structure Bytes4 where
  b0 : Byte
  b1 : Byte
  b2 : Byte
  b3 : Byte
  deriving DecidableEq, Repr

/-- `bytes[6]`: exactly six bytes, index 0 first. -/
structure Bytes6 where
  b0 : Byte
  b1 : Byte
  b2 : Byte
  b3 : Byte
  b4 : Byte
  b5 : Byte
  deriving DecidableEq, Repr

/-- `bytes[N]` together with the kind that fixes `N` (R110): `N = 4` for IP and `N = 6` for MAC. -/
inductive Octets where
  | ip (b : Bytes4)
  | mac (b : Bytes6)
  deriving DecidableEq, Repr

/-- The address value `Addr<N>` (R35): one field, exactly `N` octets in presentation order. -/
structure Addr where
  oct : Octets
  deriving DecidableEq, Repr

/-- The ARP message record `ArpMsg` (R36). -/
structure ArpMsg where
  htype : U16
  ptype : U16
  hlen : Byte
  plen : Byte
  oper : U16
  sha : Bytes6
  spa : Bytes4
  tha : Bytes6
  tpa : Bytes4
  deriving DecidableEq, Repr

/-- The eleven header fields of the IPv4 packet record (R37, R72). -/
structure IpHdr where
  version : BitVec 4
  ihl : BitVec 4
  tos : Byte
  totLen : U16
  id : U16
  frag : U16
  ttl : Byte
  protocol : Byte
  check : U16
  saddr : Bytes4
  daddr : Bytes4
  deriving DecidableEq, Repr

/-- The IPv4 packet record `IpPkt` (R37): twelve fields. -/
structure IpPkt extends IpHdr where
  body : Buffer
  deriving DecidableEq, Repr

/-- The set of the nine TCP control flags (R16): a flag is in the set when its field is `true`. -/
structure Flags where
  ns : Bool := false
  cwr : Bool := false
  ece : Bool := false
  urg : Bool := false
  ack : Bool := false
  psh : Bool := false
  rst : Bool := false
  syn : Bool := false
  fin : Bool := false
  deriving DecidableEq, Repr

/-- The header fields of the TCP segment record (R38, R74): `doff`, `rsv` and the nine flags share bytes 12 and 13. -/
structure TcpHdr where
  sport : U16
  dport : U16
  seq : U32
  ackSeq : U32
  doff : BitVec 4
  rsv : BitVec 3
  flags : Flags
  window : U16
  check : U16
  urgPtr : U16
  deriving DecidableEq, Repr

/-- The TCP segment record `TcpSeg` (R38). -/
structure TcpSeg extends TcpHdr where
  options : Buffer
  body : Buffer
  deriving DecidableEq, Repr

/-- The `field` operand of `ARP.GET` (R134). -/
inductive ArpField where
  | htype | ptype | hlen | plen | oper | sha | spa | tha | tpa
  deriving DecidableEq, Repr

/-- The `field` operand of `IP.GET` (R156): any field of R37. -/
inductive IpField where
  | version | ihl | tos | totLen | id | frag | ttl | protocol | check | saddr | daddr | body
  deriving DecidableEq, Repr

/-- The `field` operand of `TCP.GET` (R189): any field of R38, or one of the two views of R77. -/
inductive TcpField where
  | sport | dport | seq | ackSeq | doff | rsv | res1 | res2
  | ns | cwr | ece | urg | ack | psh | rst | syn | fin
  | window | check | urgPtr | options | body
  deriving DecidableEq, Repr

/-- The ten TCB counters by name: the `counter` operand of `TCB.GET` (R217). -/
inductive Counter where
  | sndUna | sndNxt | sndUp | sndWl1 | sndWl2 | iss | rcvNxt | rcvWnd | rcvUp | irs
  deriving DecidableEq, Repr

/-- One constructor for each row of spec/opcode_table.json: the 26 operations of R91 with the typed operands their rules
list (R90), and the five byte layouts, which have no command code (log entry 3). -/
inductive Instr where
  /-- `ADDR.FROM_HOST(kind, b)` (R111); the kind is the one of `b`. -/
  | addrFromHost (b : Octets)
  /-- `ADDR.FROM_NET(kind, b)` (R112). -/
  | addrFromNet (b : Octets)
  /-- `ADDR.HOST(a)` (R113). -/
  | addrHost (a : Addr)
  /-- `ADDR.NET(a)` (R114). -/
  | addrNet (a : Addr)
  /-- `ADDR.FROM_STR(kind, s)` (R116). -/
  | addrFromStr (kind : AddrKind) (t : Text)
  /-- `ADDR.TO_STR(a)` (R118). -/
  | addrToStr (a : Addr)
  /-- `ARP.NEW` (R131). -/
  | arpNew (htype ptype : U16) (hlen plen : Byte) (oper : U16) (sha : Bytes6) (spa : Bytes4) (tha : Bytes6) (tpa : Bytes4)
  /-- `ARP.PARSE(bytes)` (R132). -/
  | arpParse (bytes : Buffer)
  /-- `ARP.SERIALIZE(m)` (R133). -/
  | arpSerialize (m : ArpMsg)
  /-- `ARP.GET(m, field)` (R134). -/
  | arpGet (m : ArpMsg) (field : ArpField)
  /-- `ARP.MKREQ(localMAC, localIP, remoteIP)` (R135). -/
  | arpMkreq (localMac : Bytes6) (localIp remoteIp : Bytes4)
  /-- `ARP.RESOLVE(remoteIP, localMAC, localIP, interface)` (R136). -/
  | arpResolve (remoteIp : Bytes4) (localMac : Bytes6) (localIp : Bytes4) (iface : Text)
  /-- `CKSUM16(buf)` (R150). -/
  | cksum16 (buf : Buffer)
  /-- `IP.BUILD(protocol, srcIP, dstIP, body)` (R153). -/
  | ipBuild (protocol : Byte) (srcIp dstIp : Bytes4) (body : Buffer)
  /-- `IP.PARSE(bytes)` (R154). -/
  | ipParse (bytes : Buffer)
  /-- `IP.MARSHAL(p)` (R155). -/
  | ipMarshal (p : IpPkt)
  /-- `IP.GET(p, field)` (R156). -/
  | ipGet (p : IpPkt) (field : IpField)
  /-- `TCP.NEW_RAW` (R181). -/
  | tcpNewRaw (sport dport : U16) (seq ackSeq : U32) (doff : BitVec 4) (rsv : BitVec 3) (flags : Flags)
      (window check urgPtr : U16) (options body : Buffer)
  /-- `TCP.NEW_AUTO` (R182). -/
  | tcpNewAuto (srcIp dstIp : Bytes4) (sport dport : U16) (seq ackSeq : U32) (flags : Flags)
      (window urgPtr : U16) (options body : Buffer)
  /-- `TCP.PARSE(bytes)` (R186). -/
  | tcpParse (bytes : Buffer)
  /-- `TCP.MARSHAL(s)` (R188). -/
  | tcpMarshal (seg : TcpSeg)
  /-- `TCP.GET(s, field)` (R189). -/
  | tcpGet (seg : TcpSeg) (field : TcpField)
  /-- `TCB.INIT(t_us)` (R211). -/
  | tcbInit (tUs : Nat)
  /-- `TCB.SEND` (R213). -/
  | tcbSend (srcIp : Bytes4) (srcPort : U16) (dstIp : Bytes4) (dstPort : U16) (flags : Flags)
      (window urgentPointer : U16) (options body : Buffer)
  /-- `TCB.RECV(segment)` (R215). -/
  | tcbRecv (segment : TcpSeg)
  /-- `TCB.GET(counter)` (R217). -/
  | tcbGet (counter : Counter)
  /-- The layout row `WIRE.ARP` (R71). -/
  | wireArp (m : ArpMsg)
  /-- The layout row `WIRE.IPV4_HDR` (R72, R73). -/
  | wireIpv4Hdr (h : IpHdr)
  /-- The layout row `WIRE.TCP_HDR` (R74). -/
  | wireTcpHdr (h : TcpHdr)
  /-- The layout row `WIRE.TCP_CTRL` (R75, R76). -/
  | wireTcpCtrl (doff : BitVec 4) (rsv : BitVec 3) (flags : Flags)
  /-- The layout row `WIRE.TCP_PSEUDO` (R78). -/
  | wireTcpPseudo (srcIp dstIp : Bytes4) (tcpLength : U16)
  deriving DecidableEq, Repr

end Sys2Proof
end

