-- ==== Sys2Proof/Machine/Flags.lean ====
section
/-! DEFINITION. The nine TCP control flags in bytes 12 and 13 of the header (R75, R76), and the two reserved-field views
(R77). The block has no status flags of its own (R32). -/

namespace Sys2Proof.Machine

open Sys2Proof

/-- Byte 12, `{doff[3:0], rsv[2:0], ns}` (R75). DEDUCED: the positions are derived by the spec (D7, log entry 10). -/
def ctrlByte12 (doff : BitVec 4) (rsv : BitVec 3) (f : Flags) : Byte :=
  doff ++ rsv ++ BitVec.ofBool f.ns

/-- Byte 13, `{cwr, ece, urg, ack, psh, rst, syn, fin}`, most significant bit first (R76). -/
def ctrlByte13 (f : Flags) : Byte :=
  BitVec.ofBool f.cwr ++ BitVec.ofBool f.ece ++ BitVec.ofBool f.urg ++ BitVec.ofBool f.ack ++
    BitVec.ofBool f.psh ++ BitVec.ofBool f.rst ++ BitVec.ofBool f.syn ++ BitVec.ofBool f.fin

/-- `doff` as read from byte 12: bits 7:4 (R75). -/
def doffOf (b12 : Byte) : BitVec 4 := b12.extractLsb' 4 4

/-- `rsv` as read from byte 12: bits 3:1 (R75). -/
def rsvOf (b12 : Byte) : BitVec 3 := b12.extractLsb' 1 3

/-- The nine flags as read from bytes 12 and 13 (R75, R76). -/
def flagsOf (b12 b13 : Byte) : Flags where
  ns := b12.getLsbD 0
  cwr := b13.getLsbD 7
  ece := b13.getLsbD 6
  urg := b13.getLsbD 5
  ack := b13.getLsbD 4
  psh := b13.getLsbD 3
  rst := b13.getLsbD 2
  syn := b13.getLsbD 1
  fin := b13.getLsbD 0

/-- The view `res1 = {rsv, ns}` (R77). -/
def res1View (rsv : BitVec 3) (f : Flags) : BitVec 4 := rsv ++ BitVec.ofBool f.ns

/-- The view `res2 = {cwr, ece}` (R77). -/
def res2View (f : Flags) : BitVec 2 := BitVec.ofBool f.cwr ++ BitVec.ofBool f.ece

end Sys2Proof.Machine
end

