-- ==== Sys2Proof/Machine/Operands.lean ====
section
/-! DEFINITION. The pseudocode primitives over byte sequences (R13, R14), the assembly of every field from bytes and back
(R79) for the four byte layouts (R71, R72, R74, R78), and the Internet checksum (R150). All of it is pure. -/

namespace Sys2Proof.Machine

open Sys2Proof

/-! ### Byte sequences -/

/-- `b[i]` (R13). Every caller has checked `i < len(b)`: the value past the end reaches no result. -/
def byteAt (b : Buffer) (i : Nat) : Byte := b.getD i 0

/-- `b[lo..hi)` (R13). -/
def slice (b : Buffer) (lo hi : Nat) : Buffer := (b.drop lo).take (hi - lo)

/-- `MemRead(buf, off, n)` (R14): `n` bytes big-endian, as a natural number. -/
def memRead (b : Buffer) (off : Nat) : Nat → Nat
  | 0 => 0
  | n + 1 => (byteAt b off).toNat * 256 ^ n + memRead b (off + 1) n

/-- The `n`-byte big-endian form of `v mod 256^n`. -/
def bigEndian (v : Nat) : Nat → Buffer
  | 0 => []
  | n + 1 => BitVec.ofNat 8 (v / 256 ^ n) :: bigEndian v n

/-- `MemWrite(buf, off, n, v)` (R14), for `off + n <= len(buf)`. -/
def memWrite (b : Buffer) (off n v : Nat) : Buffer := b.take off ++ bigEndian v n ++ b.drop (off + n)

/-- `be16(buf, off)` (R14, R50). -/
def be16 (b : Buffer) (off : Nat) : U16 := byteAt b off ++ byteAt b (off + 1)

/-- `be32(buf, off)` (R14, R50). -/
def be32 (b : Buffer) (off : Nat) : U32 :=
  byteAt b off ++ byteAt b (off + 1) ++ byteAt b (off + 2) ++ byteAt b (off + 3)

/-- `put16(v)` (R14, R50). -/
def put16 (v : U16) : Buffer := [v.extractLsb' 8 8, v.extractLsb' 0 8]

/-- `put32(v)` (R14, R50). -/
def put32 (v : U32) : Buffer := [v.extractLsb' 24 8, v.extractLsb' 16 8, v.extractLsb' 8 8, v.extractLsb' 0 8]

/-- `zeros(6)` (R13). -/
def zeros6 : Bytes6 := ⟨0, 0, 0, 0, 0, 0⟩

/-- `MAC_BROADCAST` (R10): all-ones. -/
def macBroadcast : Bytes6 := ⟨0xff, 0xff, 0xff, 0xff, 0xff, 0xff⟩

/-! ### Fixed-length byte sequences -/

/-- The bytes of a `bytes[4]` in index order (R52). -/
def bytes4List (b : Bytes4) : Buffer := [b.b0, b.b1, b.b2, b.b3]

/-- The bytes of a `bytes[6]` in index order (R52). -/
def bytes6List (b : Bytes6) : Buffer := [b.b0, b.b1, b.b2, b.b3, b.b4, b.b5]

/-- `buf[off..off+4)` copied (R79). -/
def bytes4At (b : Buffer) (off : Nat) : Bytes4 :=
  ⟨byteAt b off, byteAt b (off + 1), byteAt b (off + 2), byteAt b (off + 3)⟩

/-- `buf[off..off+6)` copied (R79). -/
def bytes6At (b : Buffer) (off : Nat) : Bytes6 :=
  ⟨byteAt b off, byteAt b (off + 1), byteAt b (off + 2), byteAt b (off + 3), byteAt b (off + 4), byteAt b (off + 5)⟩

/-- The bytes of `bytes[N]` in index order. -/
def octetsList : Octets → Buffer
  | .ip b => bytes4List b
  | .mac b => bytes6List b

/-- `reverse(b)` of a `bytes[N]` (R13). -/
def reverseOctets : Octets → Octets
  | .ip b => .ip ⟨b.b3, b.b2, b.b1, b.b0⟩
  | .mac b => .mac ⟨b.b5, b.b4, b.b3, b.b2, b.b1, b.b0⟩

/-- The kind that fixes `N` (R110). -/
def octetsKind : Octets → AddrKind
  | .ip _ => .ip
  | .mac _ => .mac

/-! ### The ARP message layout (R71) -/

/-- The 28 bytes of an ARP message. -/
def arpLayout (m : ArpMsg) : Buffer :=
  put16 m.htype ++ put16 m.ptype ++ [m.hlen] ++ [m.plen] ++ put16 m.oper ++
    bytes6List m.sha ++ bytes4List m.spa ++ bytes6List m.tha ++ bytes4List m.tpa

/-- The record in the first 28 bytes of a buffer: the offsets 0, 2, 4, 5, 6, 8, 14, 18, 24 (R71, R132). -/
def arpFields (b : Buffer) : ArpMsg where
  htype := be16 b 0
  ptype := be16 b 2
  hlen := byteAt b 4
  plen := byteAt b 5
  oper := be16 b 6
  sha := bytes6At b 8
  spa := bytes4At b 14
  tha := bytes6At b 18
  tpa := bytes4At b 24

/-! ### The IPv4 header layout (R72, R73) -/

/-- `header_bytes(p)` (R155): the 20 bytes of an IPv4 header. -/
def ipHdrLayout (h : IpHdr) : Buffer :=
  [h.version ++ h.ihl] ++ [h.tos] ++ put16 h.totLen ++ put16 h.id ++ put16 h.frag ++
    [h.ttl] ++ [h.protocol] ++ put16 h.check ++ bytes4List h.saddr ++ bytes4List h.daddr

/-- The header fields in the first 20 bytes of a buffer (R72, R154). -/
def ipHdrFields (b : Buffer) : IpHdr where
  version := (byteAt b 0).extractLsb' 4 4
  ihl := (byteAt b 0).extractLsb' 0 4
  tos := byteAt b 1
  totLen := be16 b 2
  id := be16 b 4
  frag := be16 b 6
  ttl := byteAt b 8
  protocol := byteAt b 9
  check := be16 b 10
  saddr := bytes4At b 12
  daddr := bytes4At b 16

/-! ### The TCP header, control and pseudo-header layouts (R74 to R78) -/

/-- Bytes 12 and 13 of the TCP header (R75, R76). -/
def tcpCtrlLayout (doff : BitVec 4) (rsv : BitVec 3) (f : Flags) : Buffer :=
  [ctrlByte12 doff rsv f, ctrlByte13 f]

/-- The 20 bytes of a TCP header (R74, R188). -/
def tcpHdrLayout (h : TcpHdr) : Buffer :=
  put16 h.sport ++ put16 h.dport ++ put32 h.seq ++ put32 h.ackSeq ++
    tcpCtrlLayout h.doff h.rsv h.flags ++ put16 h.window ++ put16 h.check ++ put16 h.urgPtr

/-- The header fields in the first 20 bytes of a buffer (R74, R186). -/
def tcpHdrFields (b : Buffer) : TcpHdr where
  sport := be16 b 0
  dport := be16 b 2
  seq := be32 b 4
  ackSeq := be32 b 8
  doff := doffOf (byteAt b 12)
  rsv := rsvOf (byteAt b 12)
  flags := flagsOf (byteAt b 12) (byteAt b 13)
  window := be16 b 14
  check := be16 b 16
  urgPtr := be16 b 18

/-- `pseudo_header(srcIP, dstIP, L)` (R78, R184): 12 bytes, checksum input only. -/
def pseudoHeader (srcIp dstIp : Bytes4) (tcpLength : U16) : Buffer :=
  bytes4List srcIp ++ bytes4List dstIp ++ [0] ++ [Config.ipProtoTcp] ++ put16 tcpLength

/-! ### The Internet checksum (R150) -/

/-- The exact sum of a buffer's 16-bit big-endian words; an odd last byte is the high byte of a final word (R55, R150).
DEDUCED: the sum is exact, of no fixed width (D10, R151, log entry 12). -/
def wordSum : Buffer → Nat
  | [] => 0
  | [x] => x.toNat * 256
  | x :: y :: rest => x.toNat * 256 + y.toNat + wordSum rest

/-- One fold of the carries out of the low 16 bits (R150). -/
def fold16 (sum : Nat) : Nat := sum % 65536 + sum / 65536

/-- `CKSUM16(buf)` (R150): two folds, then the bitwise NOT. -/
def checksum (b : Buffer) : U16 := BitVec.ofNat 16 (0xFFFF - fold16 (fold16 (wordSum b)) % 65536)

/-! ### The initial sequence number (R212) -/

/-- `ISN(t_us) = trunc_32(floor(t_us / 4))`, for every natural number (R212, D15). -/
def isn (tUs : Nat) : U32 := BitVec.ofNat 32 (tUs / Config.isnTickUs)

end Sys2Proof.Machine
end

