-- ==== Sys2Proof/WellFormed.lean ====
section
/-! DEFINITION. Which instructions can be issued as a request (`Decode.lean`): those whose row has a command code. Nothing else
is asked: the request format bounds no length and no time (log entry 1), as the spec does not (R59, D5, D15). -/

namespace Sys2Proof

/-- A layout row has no command code (R91 numbers the 26 operations only). -/
def Instr.isOperation : Instr → Bool
  | .addrFromHost _ | .addrFromNet _ | .addrHost _ | .addrNet _ | .addrFromStr _ _ | .addrToStr _ => true
  | .arpNew .. | .arpParse _ | .arpSerialize _ | .arpGet _ _ | .arpMkreq .. | .arpResolve .. => true
  | .cksum16 _ | .ipBuild .. | .ipParse _ | .ipMarshal _ | .ipGet _ _ => true
  | .tcpNewRaw .. | .tcpNewAuto .. | .tcpParse _ | .tcpMarshal _ | .tcpGet _ _ => true
  | .tcbInit _ | .tcbSend .. | .tcbRecv _ | .tcbGet _ => true
  | .wireArp _ | .wireIpv4Hdr _ | .wireTcpHdr _ | .wireTcpCtrl .. | .wireTcpPseudo .. => false

/-- `i` can be written as a request. -/
def Instr.wellFormed (i : Instr) : Bool := i.isOperation

end Sys2Proof
end

