-- ==== Sys2Proof/Decode.lean ====
section
/-! DEFINITION. How the host issues an operation as bytes: the 8-bit command code of 30_encoding.md R91, then the typed
operands of the operation's rule. The command codes are the spec's. THE OPERAND BYTES AND THEIR ORDER ARE THE MODEL'S OWN
(DESIGN CHOICE, log entry 1): R90 packs no operands into the command word and gives them no encoding. The operands stand in
the rule's order, but the selector of a `GET` stands before the record it selects from. A scalar is big-endian; an address, a
message or a header is its wire layout; a natural number is a row of base-128 digits and has no bound; a buffer is its length,
as such a number, and its bytes, so that the request adds no bound to the lengths of R59 (D5). `decode` is total on any bytes
and rejects by name; `encode` writes the same format. -/

namespace Sys2Proof

open Sys2Proof.Machine

/-- Why a request is not an operation of the block. -/
inductive DecodeError where
  /-- The request has no bytes. -/
  | noCode
  /-- The command code is in no row of R91 (R92). -/
  | unassignedCode (code : Byte)
  /-- The code is assigned and the bytes after it are not the operands its rule lists. -/
  | badOperands (code : Byte)
  deriving DecidableEq, Repr

/-! ### Readers: each takes one operand off the front of the bytes -/

/-- A reader of one operand: the operand and the bytes after it. -/
abbrev Reader (α : Type) := Buffer → Option (α × Buffer)

def read8 : Reader Byte
  | x :: r => some (x, r)
  | [] => none

def read16 : Reader U16
  | x :: y :: r => some (x ++ y, r)
  | _ => none

def read32 : Reader U32
  | x :: y :: z :: w :: r => some (x ++ y ++ z ++ w, r)
  | _ => none

/-- A natural number of any size: base-128 digits, the least significant first, each but the last with bit 7 set. -/
def readNat : Reader Nat
  | [] => none
  | x :: r =>
    if x.toNat < 128 then some (x.toNat, r)
    else (readNat r).map fun (n, r) => (x.toNat - 128 + 128 * n, r)

/-- The first `n` bytes. -/
def readBytes (n : Nat) : Reader Buffer := fun b => if b.length < n then none else some (b.take n, b.drop n)

/-- A buffer: its length, then its bytes. -/
def readBuffer : Reader Buffer := fun b => do
  let (n, r) ← readNat b
  readBytes n r

def read4 : Reader Bytes4
  | b0 :: b1 :: b2 :: b3 :: r => some (⟨b0, b1, b2, b3⟩, r)
  | _ => none

def read6 : Reader Bytes6
  | b0 :: b1 :: b2 :: b3 :: b4 :: b5 :: r => some (⟨b0, b1, b2, b3, b4, b5⟩, r)
  | _ => none

def readKind : Reader AddrKind
  | 0#8 :: r => some (.ip, r)
  | 1#8 :: r => some (.mac, r)
  | _ => none

def readOctets : Reader Octets := fun b => do
  let (k, r) ← readKind b
  match k with
  | .ip => (read4 r).map fun (x, r) => (.ip x, r)
  | .mac => (read6 r).map fun (x, r) => (.mac x, r)

def readAddr : Reader Addr := fun b => (readOctets b).map fun (o, r) => (⟨o⟩, r)

def readArp : Reader ArpMsg := fun b => do
  let (h, r) ← readBytes 28 b
  some (arpFields h, r)

def readIpHdr : Reader IpHdr := fun b => do
  let (h, r) ← readBytes 20 b
  some (ipHdrFields h, r)

def readTcpHdr : Reader TcpHdr := fun b => do
  let (h, r) ← readBytes 20 b
  some (tcpHdrFields h, r)

def readIpPkt : Reader IpPkt := fun b => do
  let (h, r) ← readIpHdr b
  let (body, r) ← readBuffer r
  some ({ toIpHdr := h, body := body }, r)

def readTcpSeg : Reader TcpSeg := fun b => do
  let (h, r) ← readTcpHdr b
  let (options, r) ← readBuffer r
  let (body, r) ← readBuffer r
  some ({ toTcpHdr := h, options := options, body := body }, r)

/-- A flag set: two bytes laid out as bytes 12 and 13 of the TCP header with `doff` and `rsv` zero. -/
def readFlags : Reader Flags
  | x :: y :: r => if doffOf x = 0 ∧ rsvOf x = 0 then some (flagsOf x y, r) else none
  | _ => none

/-- A name out of a list, by its index. -/
def readName {α : Type} (names : List α) : Reader α
  | x :: r => (names[x.toNat]?).map fun n => (n, r)
  | [] => none

/-- The fields of `ARP.GET` in the order of R134's row in the operation table. -/
def arpFieldNames : List ArpField := [.htype, .ptype, .hlen, .plen, .oper, .sha, .spa, .tha, .tpa]

/-- The fields of `IP.GET` in the order of its row. -/
def ipFieldNames : List IpField :=
  [.version, .ihl, .tos, .totLen, .id, .frag, .ttl, .protocol, .check, .saddr, .daddr, .body]

/-- The fields of `TCP.GET` in the order of its row. -/
def tcpFieldNames : List TcpField :=
  [.sport, .dport, .seq, .ackSeq, .doff, .rsv, .res1, .res2, .ns, .cwr, .ece, .urg, .ack, .psh, .rst, .syn, .fin,
   .window, .check, .urgPtr, .options, .body]

/-- The counters of `TCB.GET` in the order of R217. -/
def counterNames : List Counter :=
  [.sndUna, .sndNxt, .sndUp, .sndWl1, .sndWl2, .iss, .rcvNxt, .rcvWnd, .rcvUp, .irs]

/-! ### The operands of each operation -/

def readArpNew : Reader Instr := fun b => do
  let (m, r) ← readArp b
  some (.arpNew m.htype m.ptype m.hlen m.plen m.oper m.sha m.spa m.tha m.tpa, r)

/-- DESIGN CHOICE (log entry 1): the field selector stands before the record, though R134 lists `(m, field)`. -/
def readArpGet : Reader Instr := fun b => do
  let (f, r) ← readName arpFieldNames b
  let (m, r) ← readArp r
  some (.arpGet m f, r)

def readArpMkreq : Reader Instr := fun b => do
  let (localMac, r) ← read6 b
  let (localIp, r) ← read4 r
  let (remoteIp, r) ← read4 r
  some (.arpMkreq localMac localIp remoteIp, r)

def readArpResolve : Reader Instr := fun b => do
  let (remoteIp, r) ← read4 b
  let (localMac, r) ← read6 r
  let (localIp, r) ← read4 r
  let (iface, r) ← readBuffer r
  some (.arpResolve remoteIp localMac localIp iface, r)

def readAddrFromStr : Reader Instr := fun b => do
  let (k, r) ← readKind b
  let (t, r) ← readBuffer r
  some (.addrFromStr k t, r)

def readIpBuild : Reader Instr := fun b => do
  let (protocol, r) ← read8 b
  let (srcIp, r) ← read4 r
  let (dstIp, r) ← read4 r
  let (body, r) ← readBuffer r
  some (.ipBuild protocol srcIp dstIp body, r)

/-- DESIGN CHOICE (log entry 1): the field selector stands before the record, though R156 lists `(p, field)`. -/
def readIpGet : Reader Instr := fun b => do
  let (f, r) ← readName ipFieldNames b
  let (p, r) ← readIpPkt r
  some (.ipGet p f, r)

def readTcpNewRaw : Reader Instr := fun b => do
  let (g, r) ← readTcpSeg b
  some (.tcpNewRaw g.sport g.dport g.seq g.ackSeq g.doff g.rsv g.flags g.window g.check g.urgPtr g.options g.body, r)

def readTcpNewAuto : Reader Instr := fun b => do
  let (srcIp, r) ← read4 b
  let (dstIp, r) ← read4 r
  let (sport, r) ← read16 r
  let (dport, r) ← read16 r
  let (seq, r) ← read32 r
  let (ackSeq, r) ← read32 r
  let (flags, r) ← readFlags r
  let (window, r) ← read16 r
  let (urgPtr, r) ← read16 r
  let (options, r) ← readBuffer r
  let (body, r) ← readBuffer r
  some (.tcpNewAuto srcIp dstIp sport dport seq ackSeq flags window urgPtr options body, r)

/-- DESIGN CHOICE (log entry 1): the field selector stands before the record, though R189 lists `(s, field)`. -/
def readTcpGet : Reader Instr := fun b => do
  let (f, r) ← readName tcpFieldNames b
  let (g, r) ← readTcpSeg r
  some (.tcpGet g f, r)

def readTcbSend : Reader Instr := fun b => do
  let (srcIp, r) ← read4 b
  let (srcPort, r) ← read16 r
  let (dstIp, r) ← read4 r
  let (dstPort, r) ← read16 r
  let (flags, r) ← readFlags r
  let (window, r) ← read16 r
  let (urgentPointer, r) ← read16 r
  let (options, r) ← readBuffer r
  let (body, r) ← readBuffer r
  some (.tcbSend srcIp srcPort dstIp dstPort flags window urgentPointer options body, r)

/-- The instruction whose one operand `rd` reads. -/
def readOne {α : Type} (rd : Reader α) (mk : α → Instr) : Reader Instr := fun b => (rd b).map fun (x, r) => (mk x, r)

/-- The command code table (R91): for each assigned code, the reader of its operands. -/
def commandTable : List (Byte × Reader Instr) :=
  [(0x01, readOne readOctets .addrFromHost),
   (0x02, readOne readOctets .addrFromNet),
   (0x03, readOne readAddr .addrHost),
   (0x04, readOne readAddr .addrNet),
   (0x05, readAddrFromStr),
   (0x06, readOne readAddr .addrToStr)] ++
  [(0x10, readArpNew),
   (0x11, readOne readBuffer .arpParse),
   (0x12, readOne readArp .arpSerialize),
   (0x13, readArpGet),
   (0x14, readArpMkreq),
   (0x15, readArpResolve)] ++
  [(0x20, readOne readBuffer .cksum16),
   (0x21, readIpBuild),
   (0x22, readOne readBuffer .ipParse),
   (0x23, readOne readIpPkt .ipMarshal),
   (0x24, readIpGet)] ++
  [(0x30, readTcpNewRaw),
   (0x31, readTcpNewAuto),
   (0x32, readOne readBuffer .tcpParse),
   (0x33, readOne readTcpSeg .tcpMarshal),
   (0x34, readTcpGet)] ++
  [(0x40, readOne readNat .tcbInit),
   (0x41, readTcbSend),
   (0x42, readOne readTcpSeg .tcbRecv),
   (0x43, readOne (readName counterNames) .tcbGet)]

/-- The instruction at the front of the bytes and the bytes after it; every other byte sequence is rejected by name. -/
def decode : Buffer → Except DecodeError (Instr × Buffer)
  | [] => .error .noCode
  | code :: operands =>
    match commandTable.lookup code with
    | none => .error (.unassignedCode code)
    | some rd =>
      match rd operands with
      | none => .error (.badOperands code)
      | some (i, rest) => .ok (i, rest)

/-! ### The encoder -/

/-- The base-128 digits of `n`, at most `fuel + 1` of them; `fuel = n` is always enough. -/
def putDigits : (fuel n : Nat) → Buffer
  | 0, n => [BitVec.ofNat 8 n]
  | fuel + 1, n =>
    if n < 128 then [BitVec.ofNat 8 n] else BitVec.ofNat 8 (128 + n % 128) :: putDigits fuel (n / 128)

def putNat (n : Nat) : Buffer := putDigits n n

def putBuffer (b : Buffer) : Buffer := putNat b.length ++ b

def putKind : AddrKind → Buffer
  | .ip => [0]
  | .mac => [1]

def putOctets (o : Octets) : Buffer := putKind (octetsKind o) ++ octetsList o

def putIpPkt (p : IpPkt) : Buffer := ipHdrLayout p.toIpHdr ++ putBuffer p.body

def putTcpSeg (g : TcpSeg) : Buffer := tcpHdrLayout g.toTcpHdr ++ putBuffer g.options ++ putBuffer g.body

def putFlags (f : Flags) : Buffer := tcpCtrlLayout 0 0 f

/-- The index of a name in its list. -/
def putName {α : Type} [DecidableEq α] (names : List α) (x : α) : Buffer := [BitVec.ofNat 8 (names.idxOf x)]

/-- The request that issues an operation. A layout row has no command code (R91) and so no request. DESIGN CHOICE (log entry
1): the operand bytes and their order, with the selector of `ARP.GET`, `IP.GET` and `TCP.GET` before the record. -/
def encode : Instr → Buffer
  | .addrFromHost b => 0x01 :: putOctets b
  | .addrFromNet b => 0x02 :: putOctets b
  | .addrHost a => 0x03 :: putOctets a.oct
  | .addrNet a => 0x04 :: putOctets a.oct
  | .addrFromStr k t => 0x05 :: (putKind k ++ putBuffer t)
  | .addrToStr a => 0x06 :: putOctets a.oct
  | .arpNew htype ptype hlen plen oper sha spa tha tpa =>
    0x10 :: arpLayout ⟨htype, ptype, hlen, plen, oper, sha, spa, tha, tpa⟩
  | .arpParse b => 0x11 :: putBuffer b
  | .arpSerialize m => 0x12 :: arpLayout m
  | .arpGet m f => 0x13 :: (putName arpFieldNames f ++ arpLayout m)
  | .arpMkreq localMac localIp remoteIp => 0x14 :: (bytes6List localMac ++ bytes4List localIp ++ bytes4List remoteIp)
  | .arpResolve remoteIp localMac localIp iface =>
    0x15 :: (bytes4List remoteIp ++ bytes6List localMac ++ bytes4List localIp ++ putBuffer iface)
  | .cksum16 b => 0x20 :: putBuffer b
  | .ipBuild protocol srcIp dstIp body => 0x21 :: ([protocol] ++ bytes4List srcIp ++ bytes4List dstIp ++ putBuffer body)
  | .ipParse b => 0x22 :: putBuffer b
  | .ipMarshal p => 0x23 :: putIpPkt p
  | .ipGet p f => 0x24 :: (putName ipFieldNames f ++ putIpPkt p)
  | .tcpNewRaw sport dport seq ackSeq doff rsv flags window check urgPtr options body =>
    0x30 :: putTcpSeg ⟨⟨sport, dport, seq, ackSeq, doff, rsv, flags, window, check, urgPtr⟩, options, body⟩
  | .tcpNewAuto srcIp dstIp sport dport seq ackSeq flags window urgPtr options body =>
    0x31 :: (bytes4List srcIp ++ bytes4List dstIp ++ put16 sport ++ put16 dport ++ put32 seq ++ put32 ackSeq ++
      putFlags flags ++ put16 window ++ put16 urgPtr ++ putBuffer options ++ putBuffer body)
  | .tcpParse b => 0x32 :: putBuffer b
  | .tcpMarshal g => 0x33 :: putTcpSeg g
  | .tcpGet g f => 0x34 :: (putName tcpFieldNames f ++ putTcpSeg g)
  | .tcbInit t => 0x40 :: putNat t
  | .tcbSend srcIp srcPort dstIp dstPort flags window urgentPointer options body =>
    0x41 :: (bytes4List srcIp ++ put16 srcPort ++ bytes4List dstIp ++ put16 dstPort ++ putFlags flags ++
      put16 window ++ put16 urgentPointer ++ putBuffer options ++ putBuffer body)
  | .tcbRecv g => 0x42 :: putTcpSeg g
  | .tcbGet c => 0x43 :: putName counterNames c
  | .wireArp _ | .wireIpv4Hdr _ | .wireTcpHdr _ | .wireTcpCtrl .. | .wireTcpPseudo .. => []

/-! ### The opcode table's numbering of an instruction's bits -/

/-- The first `n` bytes of a word whose bit 0 is bit 0 of the first byte. -/
def wordBytes : Nat → Nat → Buffer
  | 0, _ => []
  | n + 1, w => BitVec.ofNat 8 w :: wordBytes n (w / 256)

/-- Zero bytes, enough for the fixed-length operands of any operation; their zero lengths are those of empty buffers. -/
def zeroOperands : Buffer := List.replicate 64 0

/-- The request whose first `nbits` bits are those of `w`, in the opcode table's numbering, and whose further bits are 0. -/
def tableRequest (nbits w : Nat) : Buffer := wordBytes ((nbits + 7) / 8) w ++ zeroOperands

/-- The instruction that `decode` reads from the opcode table's word `w` of `nbits` bits. -/
def decodeTableWord (nbits w : Nat) : Option Instr :=
  match decode (tableRequest nbits w) with
  | .ok (i, _) => some i
  | .error _ => none

end Sys2Proof
end

