-- ==== Sys2Proof/Machine/Counters.lean ====
section
/-! DEFINITION. The Transmission Control Block: the ten 32-bit counters of 10_state.md R20 to R30, their value after
`TCB.INIT` (R42, R211), and the two transition functions (R213, R215, R216). -/

namespace Sys2Proof.Machine

open Sys2Proof

/-- The ten counters (R20): six on the send side, four on the receive side. -/
structure Tcb where
  /-- SND.UNA (R21) -/
  sndUna : U32
  /-- SND.NXT (R22) -/
  sndNxt : U32
  /-- SND.UP (R23) -/
  sndUp : U32
  /-- SND.WL1 (R24) -/
  sndWl1 : U32
  /-- SND.WL2 (R25) -/
  sndWl2 : U32
  /-- ISS (R26) -/
  iss : U32
  /-- RCV.NXT (R27) -/
  rcvNxt : U32
  /-- RCV.WND (R28) -/
  rcvWnd : U32
  /-- RCV.UP (R29) -/
  rcvUp : U32
  /-- IRS (R30) -/
  irs : U32
  deriving DecidableEq, Repr

/-- `TCB.<counter>` (R217). -/
def readCounter (t : Tcb) : Counter → U32
  | .sndUna => t.sndUna
  | .sndNxt => t.sndNxt
  | .sndUp => t.sndUp
  | .sndWl1 => t.sndWl1
  | .sndWl2 => t.sndWl2
  | .iss => t.iss
  | .rcvNxt => t.rcvNxt
  | .rcvWnd => t.rcvWnd
  | .rcvUp => t.rcvUp
  | .irs => t.irs

/-- All ten counters after `TCB.INIT(t_us)` (R42, R211). RCV.NXT = 0 is evidenced by the source; the other seven zeros are
the spec's choice D13 (log entry 6). -/
def initTcb (tUs : Nat) : Tcb where
  sndUna := Config.tcbResetOther
  sndNxt := isn tUs
  sndUp := Config.tcbResetOther
  sndWl1 := Config.tcbResetOther
  sndWl2 := Config.tcbResetOther
  iss := isn tUs
  rcvNxt := 0
  rcvWnd := Config.tcbResetOther
  rcvUp := Config.tcbResetOther
  irs := Config.tcbResetOther

/-- What a segment with these flags and this body adds to SND.NXT when it is sent (R213 step 3). -/
def sendAdvance (flags : Flags) (body : Buffer) : U32 :=
  if flags.syn || flags.fin then 1 else BitVec.ofNat 32 body.length

/-- Steps 2 to 6 of `TCB.SEND` (R213), each seeing the writes of the steps before it. DEDUCED: the additions are modulo
2^32 and a 16-bit operand is zero-extended (R218, D14, log entry 16). -/
def sendCounters (t : Tcb) (flags : Flags) (window urgentPointer : U16) (body : Buffer) : Tcb :=
  let t := { t with sndUna := t.sndNxt }
  let t := { t with sndNxt := t.sndNxt + sendAdvance flags body }
  let t := if flags.urg then { t with sndUp := urgentPointer.zeroExtend 32 } else t
  let t := { t with sndWl1 := window.zeroExtend 32 }
  { t with sndWl2 := t.rcvNxt }

/-- The new RCV.NXT of `TCB.RECV` step 2, first matching rule wins (R216). -/
def nextRcvNxt (old : U32) (g : TcpSeg) : U32 :=
  if g.flags.syn || g.flags.fin then g.seq + 1
  else if !g.flags.ack && g.body.isEmpty then g.seq + 1
  else if !g.body.isEmpty then g.seq + BitVec.ofNat 32 g.body.length
  else old

/-- The five steps of `TCB.RECV` (R215). -/
def recvCounters (t : Tcb) (g : TcpSeg) : Tcb :=
  let t := if g.flags.ack then { t with sndUna := g.ackSeq + 1 } else t
  let t := { t with rcvNxt := nextRcvNxt t.rcvNxt g }
  let t := { t with rcvWnd := g.window.zeroExtend 32 }
  let t := if g.flags.urg then { t with rcvUp := g.urgPtr.zeroExtend 32 } else t
  if g.flags.syn then { t with irs := g.seq } else t

end Sys2Proof.Machine
end

