-- ==== Sys2Proof/Machine/State.lean ====
section
/-! DEFINITION. The whole machine as plain data: the block's only state, the TCB (R20), and what a step needs beside it,
the host's operations not yet issued (R31), what the last operation delivered to the host (R33), the one wait an operation
can be in (R252), and the environment (R40, R259). -/

namespace Sys2Proof.Machine

open Sys2Proof

/-- The error results of the block (R241) with their information words. They are behaviours of the block: an operation
that raises one ends in a next state (R246). DESIGN CHOICE of the spec (D4, log entry 18). -/
inductive OpError where
  /-- Code 1: the number of delimiters found (R242). -/
  | delimiterCount (found : Nat)
  /-- Code 2: the index of the first bad part (R243). -/
  | octet (index : Nat)
  /-- Code 3: the length of the undersized buffer (R244). -/
  | size (length : Nat)
  /-- Code 4: the operating system's error text (R245). -/
  | transport (text : Text)
  deriving DecidableEq, Repr

/-- The result an operation returns to the host: one of the kinds of R15, at its width. -/
inductive Value where
  /-- An operation without a result (`TCB.INIT`, `TCB.RECV`). -/
  | unit
  | flag (b : Bool)
  | u2 (v : BitVec 2)
  | u3 (v : BitVec 3)
  | u4 (v : BitVec 4)
  | u8 (v : Byte)
  | u16 (v : U16)
  | u32 (v : U32)
  | buffer (b : Buffer)
  | text (t : Text)
  | octets (b : Octets)
  | addr (a : Addr)
  | arp (m : ArpMsg)
  | ip (p : IpPkt)
  | tcp (g : TcpSeg)
  deriving DecidableEq, Repr

/-- How an operation ended (R240): with its result, or with one error. -/
inductive Response where
  | ok (v : Value)
  | error (e : OpError)
  deriving DecidableEq, Repr

/-- A frame handed to a transport's `send` (R255). -/
structure SentFrame where
  iface : Text
  dst : Bytes6
  payload : Buffer
  deriving DecidableEq, Repr

/-- What the environment lets a transport's `recv` return (R256): the payload of a frame, or a failure (R245). -/
inductive RecvEvent where
  | frame (payload : Buffer)
  | failure (text : Text)
  deriving DecidableEq, Repr

/-- One transport instance as the environment holds it: the oracle that answers `recv`, the oracle that answers `send`,
and the log of what was sent (R259). -/
structure Transport where
  /-- Frames and failures not yet received, oldest first; empty: a `recv` waits (R252). -/
  rx : List RecvEvent
  /-- The answers to the next `send` calls in order, `some` text being a failure; past the end a `send` is accepted
  (log entry 11). -/
  txAnswers : List (Option Text)
  /-- The frames sent, oldest first. -/
  sent : List SentFrame
  deriving DecidableEq, Repr

/-- What the local address source knows of one interface (R257): an `IPAddress` of four octets and a `MACAddress` of six (R35),
each of which may be absent without the other, since the query of either can fail. That both stand in one record, which answers
both queries, is a DESIGN CHOICE (log entry 19). -/
structure LocalInterface where
  name : Text
  /-- The answer to `ip_of`; `none` when it fails. -/
  ip : Option Bytes4
  /-- The answer to `mac_of`; `none` when it fails. -/
  mac : Option Bytes6
  deriving DecidableEq, Repr

/-- The environment of R9 (3): the ARP and the IPv4 transport (R256), the local address source (R257), the clock (R258). -/
structure Env where
  arp : Transport
  ipv4 : Transport
  locals : List LocalInterface
  /-- Microseconds since midnight UTC. -/
  clock : Nat
  deriving DecidableEq, Repr

/-- The whole machine. -/
structure State where
  /-- The ten TCB counters: the only block state that persists from one operation to the next (R20). -/
  tcb : Tcb
  /-- What the last operation delivered to the host; none while an operation has delivered nothing (R33, log entry 8). -/
  response : Option Response
  /-- `ARP.RESOLVE` has sent its request and waits for a frame (R138, R252, log entry 2). -/
  awaitingArp : Bool
  /-- The operations the host has still to issue, in program order, each as its request (R31, `Decode.lean`). -/
  program : List Buffer
  env : Env
  deriving DecidableEq, Repr

/-- The two cases the spec calls a fault (R261): the source gives the operation no result there. Safe: the machine stops
(the spec's decisions D17 and D18, log entry 15). -/
inductive Fault where
  /-- Raised by `ARP.PARSE`, and by `ARP.RESOLVE` for its reply, when the buffer has fewer than 28 bytes (R132, R138, U3).
  Safe: nothing is claimed of the run. -/
  | arpShortInput
  /-- Raised by `IP.PARSE` when the body length is positive and the total length exceeds the buffer (R154, U4). Safe: nothing
  is claimed of the run. -/
  | ipBodyOutOfRange
  deriving DecidableEq, Repr

/-- Why a step has no meaning. Safe in every case: the machine does not go on (D2, D19, U9, log entry 15). -/
inductive Refusal where
  /-- An arm of `exec` that has no meaning yet; no arm raises it now. Safe. -/
  | notModelled (mnemonic : String)
  /-- Raised by `IP.BUILD`, and by `wrap`, when the body is longer than 65515 bytes (R153, R261, U5). Safe. -/
  | ipBodyTooLong
  /-- Raised by `TCP.NEW_AUTO` and `TCB.SEND` when options and body are longer than 65515 bytes together (R182, R261, U6).
  Safe. -/
  | tcpSegmentTooLong
  /-- Raised by `CKSUM16` for a buffer of 131072 bytes or more (R151, U9). Safe. -/
  | cksumBufferTooLong
  /-- Raised by `step` for a request whose command code is in no row of R91, or that has no code (R92, U15). Safe. -/
  | unassignedCommand (request : Buffer)
  /-- Raised by `step` for a request whose operand bytes are not those of its operation (log entry 1). Safe. -/
  | malformedRequest (request : Buffer)
  deriving DecidableEq, Repr

/-- A transport nothing has happened on. -/
def Transport.idle : Transport where
  rx := []
  txAnswers := []
  sent := []

/-- The machine after power-on at the time `tUs`: one `TCB.INIT(tUs)` has been performed and the host has issued nothing
(R270). The environment's parts are the model's choice (log entry 4). -/
def State.resetAt (tUs : Nat) : State where
  tcb := initTcb tUs
  response := none
  awaitingArp := false
  program := []
  env := { arp := Transport.idle, ipv4 := Transport.idle, locals := [], clock := tUs }

/-- The machine right after reset: power-on at the time the environment draws (R270). -/
def State.reset : State := State.resetAt Config.powerOnTime

end Sys2Proof.Machine
end

