-- ==== Sys2Proof/Machine/Ops.lean ====
section
/-! DEFINITION. The operations every meaning shares: delivering a result, raising an error (the block's analogue of taking an
exception, R246), the two transport calls (R255, R256), and how the next request is taken from the host (R31). There is no
return from an error: nothing is saved and nothing is restored (R249). -/

namespace Sys2Proof.Machine

open Sys2Proof

/-- The three outcomes of a step of this machine. -/
abbrev Result := Host.Outcome State Fault Refusal

/-! ### The end of an operation -/

/-- The operation returns its result with status `OK` (R240). -/
def reply (v : Value) (s : State) : Result := .next { s with response := some (.ok v) }

/-- `raise <Error>(info)` (R14, R246): no result, no counter written, the status and its information word to the host. The
machine goes on: the block accepts any operation next (R249). -/
def raise (e : OpError) (s : State) : Result := .next { s with response := some (.error e) }

/-- The numeric status of R241. -/
def errorCode : OpError → Nat
  | .delimiterCount _ => 1
  | .octet _ => 2
  | .size _ => 3
  | .transport _ => 4

/-- The status code an operation delivers (R241). -/
def statusCode : Response → Nat
  | .ok _ => 0
  | .error e => errorCode e

/-! ### The transports -/

/-- `send(interfaceName, destinationMAC, payload)` (R255): the error text when the transport fails, and the transport
afterwards. A failed send puts no frame on the link (log entry 11). -/
def transportSend (t : Transport) (iface : Text) (dst : Bytes6) (payload : Buffer) : Option Text × Transport :=
  match t.txAnswers with
  | some text :: answers => (some text, { t with txAnswers := answers })
  | none :: answers => (none, { t with txAnswers := answers, sent := t.sent ++ [⟨iface, dst, payload⟩] })
  | [] => (none, { t with sent := t.sent ++ [⟨iface, dst, payload⟩] })

/-- What a `recv` call does now. -/
inductive RecvResult where
  /-- No frame is available: the call has no step (R252). -/
  | waits
  /-- At most `maxBytes` bytes of the next frame's payload. -/
  | bytes (b : Buffer)
  /-- The transport failed. -/
  | failed (text : Text)
  deriving DecidableEq, Repr

/-- `recv(maxBytes)` (R256): a consuming read of the next frame (R58). DEDUCED: what a frame holds beyond `maxBytes` is not
returned by a later call, since "a frame is returned once" (log entry 11). -/
def transportRecv (t : Transport) (maxBytes : Nat) : RecvResult × Transport :=
  match t.rx with
  | [] => (.waits, t)
  | .frame payload :: rx => (.bytes (payload.take maxBytes), { t with rx := rx })
  | .failure text :: rx => (.failed text, { t with rx := rx })

/-- The state with another ARP transport. -/
def setArpTransport (t : Transport) (s : State) : State := { s with env := { s.env with arp := t } }

/-- The state with another IPv4 transport. -/
def setIpv4Transport (t : Transport) (s : State) : State := { s with env := { s.env with ipv4 := t } }

/-! ### The host's next operation -/

/-- The state in which the first request has been issued: it is no longer pending and the status of the operation before it
is gone (R33). -/
def issue (s : State) : State := { s with program := s.program.tail, response := none }

/-- What the block finds when it looks for its next operation. -/
inductive Fetched where
  /-- The host has issued nothing. -/
  | idle
  | operation (i : Instr)
  | rejected (r : Refusal)
  deriving DecidableEq, Repr

/-- The host's next request, decoded (R31, R90 to R92). -/
def fetch (s : State) : Fetched :=
  match s.program with
  | [] => .idle
  | request :: _ =>
    match decode request with
    | .ok (i, _) => .operation i
    | .error .noCode => .rejected (.unassignedCommand request)
    | .error (.unassignedCode _) => .rejected (.unassignedCommand request)
    | .error (.badOperands _) => .rejected (.malformedRequest request)

/-- `s` with the request placed where the next step looks for it: at the head of the host's program, no operation being in
progress. -/
def placeRequest (request : Buffer) (s : State) : State :=
  { s with awaitingArp := false, program := request :: s.program }

end Sys2Proof.Machine
end

