-- ==== Sys2Proof/Machine/Address.lean ====
section
/-! DEFINITION. The fixed-length address value family (40_address.md R110 to R120) and the textual forms of R93 and R94. -/

namespace Sys2Proof.Machine

open Sys2Proof

/-! ### Text -/

/-- The delimiter: `.` for IP, `:` for MAC (R110). -/
def delimiter : AddrKind → Byte
  | .ip => 0x2e
  | .mac => 0x3a

/-- The maximal runs of characters other than `d`, in order: `k` delimiters give `k + 1` parts, some possibly empty
(R116). -/
def splitText (d : Byte) : Text → List Text
  | [] => [[]]
  | c :: rest =>
    if c = d then [] :: splitText d rest
    else
      match splitText d rest with
      | [] => [[c]]
      | part :: parts => (c :: part) :: parts

/-- The numeric base: decimal for IP, hexadecimal for MAC (R110). -/
def numericBase : AddrKind → Nat
  | .ip => 10
  | .mac => 16

/-- The value of a character as a digit: `0`-`9`, and for the hexadecimal base `a`-`f` and `A`-`F` (R117, D20). -/
def digitValue (kind : AddrKind) (c : Byte) : Option Nat :=
  let n := c.toNat
  if 0x30 ≤ n ∧ n ≤ 0x39 then some (n - 0x30)
  else
    match kind with
    | .ip => none
    | .mac =>
      if 0x61 ≤ n ∧ n ≤ 0x66 then some (n - 0x61 + 10)
      else if 0x41 ≤ n ∧ n ≤ 0x46 then some (n - 0x41 + 10)
      else none

/-- The number that a run of digits denotes after the digits read so far, or none at a character that is no digit. -/
def digitsValue (kind : AddrKind) (acc : Nat) : Text → Option Nat
  | [] => some acc
  | c :: rest =>
    match digitValue kind c with
    | none => none
    | some d => digitsValue kind (acc * numericBase kind + d) rest

/-- The octet a part denotes, when the part is valid: one digit or more, value at most 255 (R117). -/
def partValue (kind : AddrKind) (part : Text) : Option Byte :=
  match part with
  | [] => none
  | c :: rest =>
    match digitsValue kind 0 (c :: rest) with
    | none => none
    | some v => if v ≤ 255 then some (BitVec.ofNat 8 v) else none

/-- The octets of the parts from index `i` on, or the index of the first part that is not valid (R116, R248). -/
def partsValue (kind : AddrKind) (i : Nat) : List Text → Except Nat Buffer
  | [] => .ok []
  | part :: parts =>
    match partValue kind part with
    | none => .error i
    | some v =>
      match partsValue kind (i + 1) parts with
      | .error k => .error k
      | .ok vs => .ok (v :: vs)

/-- `N` of a kind (R110). -/
def octetCount : AddrKind → Nat
  | .ip => 4
  | .mac => 6

/-- The address made of the first `N` bytes. -/
def addrOfBytes (kind : AddrKind) (b : Buffer) : Addr :=
  match kind with
  | .ip => ⟨.ip (bytes4At b 0)⟩
  | .mac => ⟨.mac (bytes6At b 0)⟩

/-- `ADDR.FROM_STR` as a function (R116): the delimiter count is looked at before the parts (R248, D21). -/
def addrOfText (kind : AddrKind) (t : Text) : Except OpError Addr :=
  let parts := splitText (delimiter kind) t
  if parts.length ≠ octetCount kind then .error (.delimiterCount (parts.length - 1))
  else
    match partsValue kind 0 parts with
    | .error i => .error (.octet i)
    | .ok b => .ok (addrOfBytes kind b)

/-- The character of a decimal digit. -/
def decimalChar (d : Nat) : Byte := BitVec.ofNat 8 (0x30 + d)

/-- The character of a hexadecimal digit, in lower case (`MAC_HEX_CASE`, R10, D22). -/
def hexChar (d : Nat) : Byte := if d < 10 then BitVec.ofNat 8 (0x30 + d) else BitVec.ofNat 8 (0x61 + (d - 10))

/-- `render(kind, v)` (R118): the shortest decimal numeral for IP, exactly two lower-case hexadecimal digits for MAC. -/
def renderOctet (kind : AddrKind) (v : Byte) : Text :=
  let n := v.toNat
  match kind with
  | .ip =>
    if n < 10 then [decimalChar n]
    else if n < 100 then [decimalChar (n / 10), decimalChar (n % 10)]
    else [decimalChar (n / 100), decimalChar (n / 10 % 10), decimalChar (n % 10)]
  | .mac => [hexChar (n / 16), hexChar (n % 16)]

/-- `join(d, parts)` (R118). -/
def joinText (d : Byte) : List Text → Text
  | [] => []
  | [part] => part
  | part :: next :: parts => part ++ d :: joinText d (next :: parts)

/-- `ADDR.TO_STR` as a function (R118). -/
def textOfAddr (a : Addr) : Text :=
  let kind := octetsKind a.oct
  joinText (delimiter kind) ((octetsList a.oct).map (renderOctet kind))

/-! ### The meanings -/

/-- `ADDR.FROM_HOST` (R111): the octets unchanged. -/
def execAddrFromHost (b : Octets) (s : State) : Result := reply (.addr ⟨b⟩) s

/-- `ADDR.FROM_NET` (R112): the octets reversed. -/
def execAddrFromNet (b : Octets) (s : State) : Result := reply (.addr ⟨reverseOctets b⟩) s

/-- `ADDR.HOST` (R113): the stored octets unchanged; this is the wire order (R52, R115). -/
def execAddrHost (a : Addr) (s : State) : Result := reply (.octets a.oct) s

/-- `ADDR.NET` (R114): the stored octets reversed. -/
def execAddrNet (a : Addr) (s : State) : Result := reply (.octets (reverseOctets a.oct)) s

/-- `ADDR.FROM_STR` (R116). -/
def execAddrFromStr (kind : AddrKind) (t : Text) (s : State) : Result :=
  match addrOfText kind t with
  | .ok a => reply (.addr a) s
  | .error e => raise e s

/-- `ADDR.TO_STR` (R118). -/
def execAddrToStr (a : Addr) (s : State) : Result := reply (.text (textOfAddr a)) s

end Sys2Proof.Machine
end

