-- ==== Sys2Proof/Machine/Arp.lean ====
section
/-! DEFINITION. The ARP message codec and the resolve sequence (41_arp.md R130 to R140). -/

namespace Sys2Proof.Machine

open Sys2Proof

/-- The request of `ARP.MKREQ` (R135); the numbers are the parameters of R10 (log entry 7). -/
def arpRequest (localMac : Bytes6) (localIp remoteIp : Bytes4) : ArpMsg where
  htype := Config.arpHtype
  ptype := Config.arpPtype
  hlen := Config.arpHlen
  plen := Config.arpPlen
  oper := Config.arpOpRequest
  sha := localMac
  spa := localIp
  tha := zeros6
  tpa := remoteIp

/-- `m.<field>` (R134). -/
def arpFieldValue (m : ArpMsg) : ArpField → Value
  | .htype => .u16 m.htype
  | .ptype => .u16 m.ptype
  | .hlen => .u8 m.hlen
  | .plen => .u8 m.plen
  | .oper => .u16 m.oper
  | .sha => .octets (.mac m.sha)
  | .spa => .octets (.ip m.spa)
  | .tha => .octets (.mac m.tha)
  | .tpa => .octets (.ip m.tpa)

/-- `ARP.NEW` (R131): no value is checked. -/
def execArpNew (htype ptype : U16) (hlen plen : Byte) (oper : U16) (sha : Bytes6) (spa : Bytes4) (tha : Bytes6)
    (tpa : Bytes4) (s : State) : Result :=
  reply (.arp ⟨htype, ptype, hlen, plen, oper, sha, spa, tha, tpa⟩) s

/-- `ARP.PARSE` (R132): no validation; fewer than 28 bytes is the fault of R261. -/
def execArpParse (bytes : Buffer) (s : State) : Result :=
  if bytes.length < Config.arpLen then .fault .arpShortInput else reply (.arp (arpFields bytes)) s

/-- `ARP.SERIALIZE` (R133). -/
def execArpSerialize (m : ArpMsg) (s : State) : Result := reply (.buffer (arpLayout m)) s

/-- `ARP.GET` (R134). Five of its nine fields are the spec's choice (D25, log entry 17). -/
def execArpGet (m : ArpMsg) (field : ArpField) (s : State) : Result := reply (arpFieldValue m field) s

/-- `ARP.MKREQ` (R135). -/
def execArpMkreq (localMac : Bytes6) (localIp remoteIp : Bytes4) (s : State) : Result :=
  reply (.arp (arpRequest localMac localIp remoteIp)) s

/-- Step 3 of `ARP.RESOLVE` (R136): one blocking receive of 28 bytes, parsed with no check at all (R137). While no frame is
available the operation stays in progress (R138, R252, log entry 2). -/
def arpAwaitReply (s : State) : Result :=
  match transportRecv s.env.arp Config.arpLen with
  | (.waits, _) => .next { s with awaitingArp := true, response := none }
  | (.failed text, t) => raise (.transport text) { setArpTransport t s with awaitingArp := false }
  | (.bytes b, t) =>
    if b.length < Config.arpLen then .fault .arpShortInput
    else reply (.octets (.mac (arpFields b).sha)) { setArpTransport t s with awaitingArp := false }

/-- `ARP.RESOLVE` (R136): build the request, broadcast it, wait for one reply. If `send` fails, `recv` is not called
(R245). -/
def execArpResolve (remoteIp : Bytes4) (localMac : Bytes6) (localIp : Bytes4) (iface : Text) (s : State) : Result :=
  match transportSend s.env.arp iface macBroadcast (arpLayout (arpRequest localMac localIp remoteIp)) with
  | (some text, t) => raise (.transport text) (setArpTransport t s)
  | (none, t) => arpAwaitReply (setArpTransport t s)

end Sys2Proof.Machine
end

