-- ==== Sys2Proof/Machine/Ipv4.lean ====
section
/-! DEFINITION. The Internet checksum operation and the IPv4 packet codec (42_ipv4.md R150 to R160). -/

namespace Sys2Proof.Machine

open Sys2Proof

/-- The header `IP.BUILD` computes the checksum of: checksum field zero (R153). -/
def ipProvisionalHdr (id : U16) (protocol : Byte) (srcIp dstIp : Bytes4) (bodyLength : Nat) : IpHdr where
  version := Config.ipVersion
  ihl := Config.ipIhl
  tos := Config.ipTos
  totLen := BitVec.ofNat 16 (Config.ipHdrLen + bodyLength)
  id := id
  frag := Config.ipFrag
  ttl := Config.ipTtlInit
  protocol := protocol
  check := 0
  saddr := srcIp
  daddr := dstIp

/-- The packet of `IP.BUILD` for the identification `id` (R153). -/
def ipPacketOf (id : U16) (protocol : Byte) (srcIp dstIp : Bytes4) (body : Buffer) : IpPkt :=
  let h := ipProvisionalHdr id protocol srcIp dstIp body.length
  { toIpHdr := { h with check := checksum (ipHdrLayout h) }, body := body }

/-- `IP.MARSHAL` as a function (R155): nothing is recomputed. -/
def ipBytes (p : IpPkt) : Buffer := ipHdrLayout p.toIpHdr ++ p.body

/-- `p.<field>` (R156). -/
def ipFieldValue (p : IpPkt) : IpField → Value
  | .version => .u4 p.version
  | .ihl => .u4 p.ihl
  | .tos => .u8 p.tos
  | .totLen => .u16 p.totLen
  | .id => .u16 p.id
  | .frag => .u16 p.frag
  | .ttl => .u8 p.ttl
  | .protocol => .u8 p.protocol
  | .check => .u16 p.check
  | .saddr => .octets (.ip p.saddr)
  | .daddr => .octets (.ip p.daddr)
  | .body => .buffer p.body

/-- `CKSUM16` (R150); a buffer of 131072 bytes or more is refused (R151, U9). -/
def execCksum16 (buf : Buffer) (s : State) : Result :=
  if Config.cksumLimit ≤ buf.length then .refused .cksumBufferTooLong else reply (.u16 (checksum buf)) s

/-- `len(body) > IP_BODY_MAX` (R153). -/
def ipTooLong (body : Buffer) : Bool := decide (Config.ipBodyMax < body.length)

/-- `IP.BUILD` (R153) with the open identification of R10 (log entry 5); a body that does not fit is refused (R261, U5). -/
def execIpBuild (protocol : Byte) (srcIp dstIp : Bytes4) (body : Buffer) (s : State) : Result :=
  if ipTooLong body then .refused .ipBodyTooLong
  else reply (.ip (ipPacketOf Config.ipIdSentinel protocol srcIp dstIp body)) s

/-- `IP.PARSE` (R154): only the minimum length is checked (R157); a body that would run past the buffer is the fault of
R261. -/
def execIpParse (bytes : Buffer) (s : State) : Result :=
  if bytes.length < Config.ipHdrLen then raise (.size bytes.length) s
  else
    let h := ipHdrFields bytes
    let hl := h.ihl.toNat * 4
    let bl : Int := (h.totLen.toNat : Int) - (hl : Int)
    if bl ≤ 0 then reply (.ip { toIpHdr := h, body := [] }) s
    else if bytes.length < h.totLen.toNat then .fault .ipBodyOutOfRange
    else reply (.ip { toIpHdr := h, body := slice bytes hl h.totLen.toNat }) s

/-- `IP.MARSHAL` (R155). -/
def execIpMarshal (p : IpPkt) (s : State) : Result := reply (.buffer (ipBytes p)) s

/-- `IP.GET` (R156). DESIGN CHOICE of the spec (D25, log entry 17). -/
def execIpGet (p : IpPkt) (field : IpField) (s : State) : Result := reply (ipFieldValue p field) s

end Sys2Proof.Machine
end

