-- ==== Sys2Proof/Machine/Layout.lean ====
section
/-! DEFINITION. The five layout rows of the opcode table (R70 to R78). They are data layouts, not operations of the block: no
command code decodes to one, so no step runs one. What the spec gives a layout is how its fields become its bytes (R79);
`exec` on a layout row delivers those bytes and changes nothing else (DESIGN CHOICE, log entry 3). -/

namespace Sys2Proof.Machine

open Sys2Proof

/-- `WIRE.ARP` (R71): 28 bytes. -/
def execWireArp (m : ArpMsg) (s : State) : Result := reply (.buffer (arpLayout m)) s

/-- `WIRE.IPV4_HDR` (R72, R73): 20 bytes. -/
def execWireIpv4Hdr (h : IpHdr) (s : State) : Result := reply (.buffer (ipHdrLayout h)) s

/-- `WIRE.TCP_HDR` (R74): 20 bytes. -/
def execWireTcpHdr (h : TcpHdr) (s : State) : Result := reply (.buffer (tcpHdrLayout h)) s

/-- `WIRE.TCP_CTRL` (R75, R76): bytes 12 and 13 of the TCP header. -/
def execWireTcpCtrl (doff : BitVec 4) (rsv : BitVec 3) (flags : Flags) (s : State) : Result :=
  reply (.buffer (tcpCtrlLayout doff rsv flags)) s

/-- `WIRE.TCP_PSEUDO` (R78): 12 bytes. -/
def execWireTcpPseudo (srcIp dstIp : Bytes4) (tcpLength : U16) (s : State) : Result :=
  reply (.buffer (pseudoHeader srcIp dstIp tcpLength)) s

end Sys2Proof.Machine
end

