-- ==== Sys2Proof/Machine/Tcp.lean ====
section
/-! DEFINITION. The TCP segment codec (43_tcp.md R180 to R193). -/

namespace Sys2Proof.Machine

open Sys2Proof

/-- `TCP.MARSHAL` as a function (R188): header, options, body; nothing is recomputed and nothing is padded. -/
def tcpBytes (g : TcpSeg) : Buffer := tcpHdrLayout g.toTcpHdr ++ g.options ++ g.body

/-- `trunc_4(20 + len(options) + 1)` (R183): the off-by-one is normative (D6, D28, log entry 10). -/
def autoDoff (options : Buffer) : BitVec 4 := BitVec.ofNat 4 (Config.tcpHdrLen + options.length + 1)

/-- The segment `TCP.NEW_AUTO` computes the checksum of: checksum field zero (R182). -/
def tcpProvisionalSeg (sport dport : U16) (seq ackSeq : U32) (flags : Flags) (window urgPtr : U16)
    (options body : Buffer) : TcpSeg where
  sport := sport
  dport := dport
  seq := seq
  ackSeq := ackSeq
  doff := autoDoff options
  rsv := 0
  flags := flags
  window := window
  check := 0
  urgPtr := urgPtr
  options := options
  body := body

/-- The true length in bytes of header, options and body, as the 16-bit field of the pseudo-header (R184). -/
def tcpLengthField (options body : Buffer) : U16 :=
  BitVec.ofNat 16 (Config.tcpHdrLen + options.length + body.length)

/-- The segment of `TCP.NEW_AUTO` (R182), the checksum of R185 included. -/
def tcpSegmentOf (srcIp dstIp : Bytes4) (sport dport : U16) (seq ackSeq : U32) (flags : Flags) (window urgPtr : U16)
    (options body : Buffer) : TcpSeg :=
  let g := tcpProvisionalSeg sport dport seq ackSeq flags window urgPtr options body
  { g with check := checksum (pseudoHeader srcIp dstIp (tcpLengthField options body) ++ tcpBytes g) }

/-- `len(options) + len(body) > TCP_SEG_MAX` (R182). -/
def tcpTooLong (options body : Buffer) : Bool := decide (Config.tcpSegMax < options.length + body.length)

/-- `s.<field>`, or one of the views `res1` and `res2` (R189, R77); a flag accessor returns a boolean. -/
def tcpFieldValue (g : TcpSeg) : TcpField → Value
  | .sport => .u16 g.sport
  | .dport => .u16 g.dport
  | .seq => .u32 g.seq
  | .ackSeq => .u32 g.ackSeq
  | .doff => .u4 g.doff
  | .rsv => .u3 g.rsv
  | .res1 => .u4 (res1View g.rsv g.flags)
  | .res2 => .u2 (res2View g.flags)
  | .ns => .flag g.flags.ns
  | .cwr => .flag g.flags.cwr
  | .ece => .flag g.flags.ece
  | .urg => .flag g.flags.urg
  | .ack => .flag g.flags.ack
  | .psh => .flag g.flags.psh
  | .rst => .flag g.flags.rst
  | .syn => .flag g.flags.syn
  | .fin => .flag g.flags.fin
  | .window => .u16 g.window
  | .check => .u16 g.check
  | .urgPtr => .u16 g.urgPtr
  | .options => .buffer g.options
  | .body => .buffer g.body

/-- `TCP.NEW_RAW` (R181): nothing is computed and nothing is checked. -/
def execTcpNewRaw (sport dport : U16) (seq ackSeq : U32) (doff : BitVec 4) (rsv : BitVec 3) (flags : Flags)
    (window check urgPtr : U16) (options body : Buffer) (s : State) : Result :=
  reply (.tcp ⟨⟨sport, dport, seq, ackSeq, doff, rsv, flags, window, check, urgPtr⟩, options, body⟩) s

/-- `TCP.NEW_AUTO` (R182); a segment that does not fit is refused (R261, U6). -/
def execTcpNewAuto (srcIp dstIp : Bytes4) (sport dport : U16) (seq ackSeq : U32) (flags : Flags)
    (window urgPtr : U16) (options body : Buffer) (s : State) : Result :=
  if tcpTooLong options body then .refused .tcpSegmentTooLong
  else reply (.tcp (tcpSegmentOf srcIp dstIp sport dport seq ackSeq flags window urgPtr options body)) s

/-- `TCP.PARSE` (R186): only the minimum length is checked (R190); options and body stay empty (R187). -/
def execTcpParse (bytes : Buffer) (s : State) : Result :=
  if bytes.length < Config.tcpHdrLen then raise (.size bytes.length) s
  else reply (.tcp { toTcpHdr := tcpHdrFields bytes, options := [], body := [] }) s

/-- `TCP.MARSHAL` (R188). -/
def execTcpMarshal (seg : TcpSeg) (s : State) : Result := reply (.buffer (tcpBytes seg)) s

/-- `TCP.GET` (R189). -/
def execTcpGet (seg : TcpSeg) (field : TcpField) (s : State) : Result := reply (tcpFieldValue seg field) s

end Sys2Proof.Machine
end

