-- ==== Sys2Proof/Machine/Tcb.lean ====
section
/-! DEFINITION. The Transmission Control Block family (44_tcb.md R210 to R221). -/

namespace Sys2Proof.Machine

open Sys2Proof

/-- `TCB.INIT` (R211): all ten counters, for any natural number (D15), each time it is issued (D16, log entry 16). -/
def execTcbInit (tUs : Nat) (s : State) : Result := reply .unit { s with tcb := initTcb tUs }

/-- `TCB.SEND` (R213): the segment is built from SND.NXT and RCV.NXT as they were, then the counters change. A segment that
does not fit is refused before any counter is written (U6). -/
def execTcbSend (srcIp : Bytes4) (srcPort : U16) (dstIp : Bytes4) (dstPort : U16) (flags : Flags)
    (window urgentPointer : U16) (options body : Buffer) (s : State) : Result :=
  if tcpTooLong options body then .refused .tcpSegmentTooLong
  else
    reply
      (.tcp (tcpSegmentOf srcIp dstIp srcPort dstPort s.tcb.sndNxt s.tcb.rcvNxt flags window urgentPointer options body))
      { s with tcb := sendCounters s.tcb flags window urgentPointer body }

/-- `TCB.RECV` (R215): no check of any kind (R214). -/
def execTcbRecv (segment : TcpSeg) (s : State) : Result := reply .unit { s with tcb := recvCounters s.tcb segment }

/-- `TCB.GET` (R217). DESIGN CHOICE of the spec (D25, log entry 17). -/
def execTcbGet (counter : Counter) (s : State) : Result := reply (.u32 (readCounter s.tcb counter)) s

end Sys2Proof.Machine
end

