-- ==== Sys2Proof/Machine/Dispatch.lean ====
section
/-! DEFINITION. One arm per constructor of `Instr`: the execution of one operation (R57: atomic, in the host's order). -/

namespace Sys2Proof.Machine
open Sys2Proof

def exec (i : Instr) (s : State) : Host.Outcome State Fault Refusal :=
  match i with
  | .addrFromHost b => Sys2Proof.Machine.execAddrFromHost b s
  | .addrFromNet b => Sys2Proof.Machine.execAddrFromNet b s
  | .addrHost a => Sys2Proof.Machine.execAddrHost a s
  | .addrNet a => Sys2Proof.Machine.execAddrNet a s
  | .addrFromStr kind t => Sys2Proof.Machine.execAddrFromStr kind t s
  | .addrToStr a => Sys2Proof.Machine.execAddrToStr a s
  | .arpNew htype ptype hlen plen oper sha spa tha tpa => Sys2Proof.Machine.execArpNew htype ptype hlen plen oper sha spa tha tpa s
  | .arpParse bytes => Sys2Proof.Machine.execArpParse bytes s
  | .arpSerialize m => Sys2Proof.Machine.execArpSerialize m s
  | .arpGet m field => Sys2Proof.Machine.execArpGet m field s
  | .arpMkreq localMac localIp remoteIp => Sys2Proof.Machine.execArpMkreq localMac localIp remoteIp s
  | .arpResolve remoteIp localMac localIp iface => Sys2Proof.Machine.execArpResolve remoteIp localMac localIp iface s
  | .cksum16 buf => Sys2Proof.Machine.execCksum16 buf s
  | .ipBuild protocol srcIp dstIp body => Sys2Proof.Machine.execIpBuild protocol srcIp dstIp body s
  | .ipParse bytes => Sys2Proof.Machine.execIpParse bytes s
  | .ipMarshal p => Sys2Proof.Machine.execIpMarshal p s
  | .ipGet p field => Sys2Proof.Machine.execIpGet p field s
  | .tcpNewRaw sport dport seq ackSeq doff rsv flags window check urgPtr options body => Sys2Proof.Machine.execTcpNewRaw sport dport seq ackSeq doff rsv flags window check urgPtr options body s
  | .tcpNewAuto srcIp dstIp sport dport seq ackSeq flags window urgPtr options body => Sys2Proof.Machine.execTcpNewAuto srcIp dstIp sport dport seq ackSeq flags window urgPtr options body s
  | .tcpParse bytes => Sys2Proof.Machine.execTcpParse bytes s
  | .tcpMarshal seg => Sys2Proof.Machine.execTcpMarshal seg s
  | .tcpGet seg field => Sys2Proof.Machine.execTcpGet seg field s
  | .tcbInit tUs => Sys2Proof.Machine.execTcbInit tUs s
  | .tcbSend srcIp srcPort dstIp dstPort flags window urgentPointer options body => Sys2Proof.Machine.execTcbSend srcIp srcPort dstIp dstPort flags window urgentPointer options body s
  | .tcbRecv segment => Sys2Proof.Machine.execTcbRecv segment s
  | .tcbGet counter => Sys2Proof.Machine.execTcbGet counter s
  | .wireArp m => Sys2Proof.Machine.execWireArp m s
  | .wireIpv4Hdr h => Sys2Proof.Machine.execWireIpv4Hdr h s
  | .wireTcpHdr h => Sys2Proof.Machine.execWireTcpHdr h s
  | .wireTcpCtrl doff rsv flags => Sys2Proof.Machine.execWireTcpCtrl doff rsv flags s
  | .wireTcpPseudo srcIp dstIp tcpLength => Sys2Proof.Machine.execWireTcpPseudo srcIp dstIp tcpLength s

end Sys2Proof.Machine
end

