-- ==== Sys2Proof/Machine/Step.lean ====
section
/-! DEFINITION. One step of the machine: an operation in progress goes on waiting or completes; otherwise the block takes the
host's next request and executes it whole (R9, R31, R57). -/

namespace Sys2Proof.Machine

open Sys2Proof

/-- One step. With no request pending the block is idle and nothing changes (R249, log entry 2). -/
def step (s : State) : Host.Outcome State Fault Refusal :=
  if s.awaitingArp then arpAwaitReply s
  else
    match fetch s with
    | .idle => .next s
    | .operation i => exec i (issue s)
    | .rejected r => .refused r

/-- `s` with the opcode table's word placed as the host's next request, so that the next step decodes and runs it. This
stands for the host issuing a program (log entry 14). -/
def State.withFetchWord (s : State) (nbits w : Nat) : State := placeRequest (tableRequest nbits w) s

end Sys2Proof.Machine
end

