-- ==== Sys2Proof/Machine/Environment.lean ====
section
/-! DEFINITION. The outside of the block (R9, R40, R41, R259): what the environment can do between steps, what the host can
ask of the collaborators (R255 to R258), and the three pseudo-operations of R96, which only abbreviate real operations.
Nothing here is an operation of the block and no step calls it. -/

namespace Sys2Proof.Machine

open Sys2Proof

/-! ### Inputs of the environment: they may land between any two steps, also while `ARP.RESOLVE` waits (log entry 19) -/

/-- A transport with one more event to receive. -/
def arrives (e : RecvEvent) (t : Transport) : Transport := { t with rx := t.rx ++ [e] }

/-- A frame or a failure arrives on the ARP transport. -/
def arpArrival (e : RecvEvent) (s : State) : State := setArpTransport (arrives e s.env.arp) s

/-- A frame or a failure arrives on the IPv4 transport. -/
def ipv4Arrival (e : RecvEvent) (s : State) : State := setIpv4Transport (arrives e s.env.ipv4) s

/-- The environment fixes the answer to the next `send` call on the ARP transport that has no answer yet. -/
def arpSendAnswer (answer : Option Text) (s : State) : State :=
  setArpTransport { s.env.arp with txAnswers := s.env.arp.txAnswers ++ [answer] } s

/-- The environment fixes the answer to the next `send` call on the IPv4 transport that has no answer yet. -/
def ipv4SendAnswer (answer : Option Text) (s : State) : State :=
  setIpv4Transport { s.env.ipv4 with txAnswers := s.env.ipv4.txAnswers ++ [answer] } s

/-- The wall clock shows another time: any natural number (R254, U8). -/
def clockShows (tUs : Nat) (s : State) : State := { s with env := { s.env with clock := tUs } }

/-- The operating system's state of an interface changes (R257). DESIGN CHOICE (log entry 19): one record replaces what was
known of the interface, both answers of it; each answer is the environment's own and either can be absent. -/
def bindInterface (l : LocalInterface) (s : State) : State := { s with env := { s.env with locals := l :: s.env.locals } }

/-! ### The host -/

/-- The host issues one more operation, after those it has issued (R31, R61). -/
def hostIssues (i : Instr) (s : State) : State := { s with program := s.program ++ [encode i] }

/-- The host's own `send` on the IPv4 transport (R255): the error text when it fails, and the state afterwards. -/
def hostSend (iface : Text) (dst : Bytes6) (payload : Buffer) (s : State) : Option Text × State :=
  match transportSend s.env.ipv4 iface dst payload with
  | (failure, t) => (failure, setIpv4Transport t s)

/-- The host's own `recv` on the IPv4 transport (R256). -/
def hostRecv (maxBytes : Nat) (s : State) : RecvResult × State :=
  match transportRecv s.env.ipv4 maxBytes with
  | (result, t) => (result, setIpv4Transport t s)

/-- `ip_of(interfaceName)` (R257), a four-octet address value; none when the query fails. The interface's latest record answers
(log entry 19). -/
def ipOf (iface : Text) (s : State) : Option Addr :=
  (s.env.locals.find? fun l => l.name == iface).bind fun l => l.ip.map fun b => ⟨.ip b⟩

/-- `mac_of(interfaceName)` (R257), a six-octet address value; none when the query fails. The interface's latest record answers
(log entry 19). -/
def macOf (iface : Text) (s : State) : Option Addr :=
  (s.env.locals.find? fun l => l.name == iface).bind fun l => l.mac.map fun b => ⟨.mac b⟩

/-- The operation by which the host creates the TCB: the time is the clock's at the moment of the call (R211, R258). -/
def initNow (s : State) : Instr := .tcbInit s.env.clock

/-! ### Pseudo-operations (R96) -/

/-- `WRAP(seg, src, dst)` (R96, R160), for the identification `id`: refused where `IP.BUILD` refuses the marshalled segment
as its body (R153, R261). -/
def wrap (id : U16) (g : TcpSeg) (src dst : Bytes4) : Except Refusal Buffer :=
  if ipTooLong (tcpBytes g) then .error .ipBodyTooLong
  else .ok (ipBytes (ipPacketOf id Config.ipProtoTcp src dst (tcpBytes g)))

/-- `ATTACH(s, options, body)` (R191): the raw-mode construction with every header field of `g` (D23, log entry 17). -/
def attach (g : TcpSeg) (options body : Buffer) : Instr :=
  .tcpNewRaw g.sport g.dport g.seq g.ackSeq g.doff g.rsv g.flags g.window g.check g.urgPtr options body

/-- `ADDR.IP(s)` (R96): the four wire-order bytes of a dotted string. -/
def addrIp (t : Text) : Except OpError Octets :=
  match addrOfText .ip t with
  | .ok a => .ok a.oct
  | .error e => .error e

end Sys2Proof.Machine
end

