-- ==== Sys2Proof/Safety.lean ====
section
/-! DEFINITION. The terms claims are stated in: the invariant of the machine, a run of operations, and the spec's own
wording of a checksum's word sum and of an address string's parts, written apart from the functions the machine runs. -/

namespace Sys2Proof.Safety

open Sys2Proof Sys2Proof.Machine

/-- A frame that `ARP.RESOLVE` may have sent: a broadcast of a 28-byte Ethernet and IPv4 request (R135, R136). -/
def IsArpRequest (f : SentFrame) : Prop :=
  f.dst = ⟨0xff, 0xff, 0xff, 0xff, 0xff, 0xff⟩ ∧ f.payload.length = 28 ∧ f.payload.take 8 = [0, 1, 8, 0, 6, 4, 0, 1]

/-- The invariant every step keeps. -/
structure Inv (s : State) : Prop where
  /-- A counter that only ever takes 16-bit values stays below 2^16 (R218). -/
  sndUp_short : s.tcb.sndUp.toNat < 2 ^ 16
  sndWl1_short : s.tcb.sndWl1.toNat < 2 ^ 16
  rcvWnd_short : s.tcb.rcvWnd.toNat < 2 ^ 16
  rcvUp_short : s.tcb.rcvUp.toNat < 2 ^ 16
  /-- An operation in progress has delivered nothing (R240, R252). -/
  waiting_silent : s.awaitingArp = true → s.response = none
  /-- The ARP transport has been given nothing but broadcast requests (R136). -/
  arp_requests_only : ∀ f ∈ s.env.arp.sent, IsArpRequest f

/-- A list of operations issued one after another (R61). -/
def runOps : List Instr → State → Result
  | [], s => .next s
  | i :: rest, s =>
    match exec i (issue s) with
    | .next t => runOps rest t
    | .fault f => .fault f
    | .refused r => .refused r

/-- What an operation adds to SND.NXT (R221 (c)): 1 for a send with SYN or FIN, the body's length for another send. -/
def consumed : Instr → Nat
  | .tcbSend _ _ _ _ flags _ _ _ body => if flags.syn ∨ flags.fin then 1 else body.length
  | _ => 0

/-- `TCB.INIT` starts a new connection attempt (R44). -/
def isInit : Instr → Bool
  | .tcbInit _ => true
  | _ => false

/-- `ARP.RESOLVE`, the one operation that can wait. -/
def isResolve : Instr → Bool
  | .arpResolve .. => true
  | _ => false

/-- The operations that write TCB counters (R58). -/
def writesTcb : Instr → Bool
  | .tcbInit _ => true
  | .tcbSend .. => true
  | .tcbRecv _ => true
  | _ => false

/-- The operations that read TCB counters. -/
def readsTcb : Instr → Bool
  | .tcbSend .. => true
  | .tcbGet _ => true
  | _ => false

/-- The exact sum of the 16-bit big-endian words of a buffer, the last one completed by a zero byte when the length is odd
(R53, R55, R150), indexed word by word. -/
def indexedWordSum (b : Buffer) : Nat := ((List.range ((b.length + 1) / 2)).map fun k => memRead b (2 * k) 2).sum

/-- The word sum modulo 0xFFFF, with 0xFFFF for a non-zero multiple (R152 (d)). -/
def foldedSum (n : Nat) : Nat := if n = 0 then 0 else (n - 1) % 65535 + 1

/-- `c` is the character of the digit `d` (R117): `0`-`9`; for MAC also `a`-`f` and `A`-`F`. -/
def IsDigit (kind : AddrKind) (c : Byte) (d : Nat) : Prop :=
  (d ≤ 9 ∧ c.toNat = 48 + d) ∨
    (kind = .mac ∧ 10 ≤ d ∧ d ≤ 15 ∧ (c.toNat = 97 + (d - 10) ∨ c.toNat = 65 + (d - 10)))

/-- "decimal for IP, hexadecimal for MAC" (R110). -/
def radix : AddrKind → Nat
  | .ip => 10
  | .mac => 16

/-- `part` is a non-empty string of digits of the kind's base and denotes `v` (R117). -/
def Denotes (kind : AddrKind) (part : Text) (v : Nat) : Prop :=
  part ≠ [] ∧ ∃ ds : List Nat, List.Forall₂ (IsDigit kind) part ds ∧
    v = Nat.ofDigits (radix kind) ds.reverse

/-- The 28 bytes of `ARP.MKREQ`'s request, byte by byte (R71, R135). -/
def requestBytes (localMac : Bytes6) (localIp remoteIp : Bytes4) : Buffer :=
  [0, 1, 8, 0, 6, 4, 0, 1,
   localMac.b0, localMac.b1, localMac.b2, localMac.b3, localMac.b4, localMac.b5,
   localIp.b0, localIp.b1, localIp.b2, localIp.b3,
   0, 0, 0, 0, 0, 0,
   remoteIp.b0, remoteIp.b1, remoteIp.b2, remoteIp.b3]

/-- An outcome that is a next state. -/
def Completes (o : Result) : Prop := ∃ t, o = .next t

/-- The state after an operation of the codec families: the result delivered and nothing else changed (R58). -/
def delivered (s : State) (v : Value) : State := { s with response := some (.ok v) }

/-- The state after an error: the error reported and nothing else changed (R246). -/
def reported (s : State) (e : OpError) : State := { s with response := some (.error e) }

end Sys2Proof.Safety
end

