-- ==== Sys2Proof/Certificates/Slice0/Obligations.lean ====
section
/-! DEFINITION. The statements for the provers. A statement whose conclusion is `exec i s = .next { s with … }` is at once the
instruction's result, its frame (everything not named is unchanged) and the place where it completes. -/

open Sys2Proof Sys2Proof.Machine Sys2Proof.Safety

/-! ### The address value (40_address.md) -/

/-- R111, R113: `ADDR.FROM_HOST` keeps the octets and `ADDR.HOST` returns them, unchanged. -/
def Obligations.AddrHostOrderIsUnchanged : Prop :=
  (∀ (b : Octets) (s : State), exec (.addrFromHost b) s = .next { s with response := some (.ok (.addr ⟨b⟩)) }) ∧
  (∀ (a : Addr) (s : State), exec (.addrHost a) s = .next { s with response := some (.ok (.octets a.oct)) })

/-- R112, R114: `ADDR.FROM_NET` and `ADDR.NET` reverse the octets, and keep the kind. -/
def Obligations.AddrNetOrderIsReversed : Prop :=
  (∀ (b : Octets) (s : State), ∃ r : Octets,
    exec (.addrFromNet b) s = .next { s with response := some (.ok (.addr ⟨r⟩)) } ∧
    octetsList r = (octetsList b).reverse ∧ octetsKind r = octetsKind b) ∧
  (∀ (a : Addr) (s : State), ∃ r : Octets,
    exec (.addrNet a) s = .next { s with response := some (.ok (.octets r)) } ∧
    octetsList r = (octetsList a.oct).reverse ∧ octetsKind r = octetsKind a.oct)

/-- R119 (a): the four order laws, each as two operations one after the other. -/
def Obligations.AddrOrderPairsCompose : Prop :=
  ∀ (b : Octets) (s : State),
    (∀ a t, exec (.addrFromHost b) s = .next t → t.response = some (.ok (.addr a)) →
      ∃ r, exec (.addrHost a) t = .next { t with response := some (.ok (.octets b)) } ∧
        exec (.addrNet a) t = .next { t with response := some (.ok (.octets r)) } ∧
        octetsList r = (octetsList b).reverse) ∧
    (∀ a t, exec (.addrFromNet b) s = .next t → t.response = some (.ok (.addr a)) →
      ∃ r, exec (.addrNet a) t = .next { t with response := some (.ok (.octets b)) } ∧
        exec (.addrHost a) t = .next { t with response := some (.ok (.octets r)) } ∧
        octetsList r = (octetsList b).reverse)

/-- R242: a string with a number of delimiters other than `N - 1` is `DelimiterCount` with the number found, whatever its
parts are (the precedence over a bad part is the spec's choice D21, log entry 13). -/
def Obligations.FromStrReportsWrongDelimiterCount : Prop :=
  ∀ (kind : AddrKind) (t : Text) (s : State), t.count (delimiter kind) + 1 ≠ octetCount kind →
    exec (.addrFromStr kind t) s = .next { s with response := some (.error (.delimiterCount (t.count (delimiter kind)))) }

/-- R116, R117: a string of `N` valid parts is the address of their values; the grammar of a part is the spec's choice D20
(log entry 13). -/
def Obligations.FromStrReadsValidParts : Prop :=
  ∀ (kind : AddrKind) (parts : List Text) (vs : List Nat) (s : State), parts.length = octetCount kind →
    List.Forall₂ (fun part v => Denotes kind part v ∧ v ≤ 255) parts vs →
    ∃ a : Addr, octetsKind a.oct = kind ∧ octetsList a.oct = vs.map (BitVec.ofNat 8) ∧
      exec (.addrFromStr kind ([delimiter kind].intercalate parts)) s = .next { s with response := some (.ok (.addr a)) }

/-- R243, R248: with the right number of delimiters, the leftmost part that is not a valid octet is reported by its index (the
grammar D20 and the choice of the leftmost D21 are the spec's own, log entry 13). -/
def Obligations.FromStrReportsLeftmostBadPart : Prop :=
  ∀ (kind : AddrKind) (parts : List Text) (i : Nat) (s : State), parts.length = octetCount kind →
    (∀ part ∈ parts, delimiter kind ∉ part) →
    (∀ k, k < i → ∃ v, Denotes kind (parts.getD k []) v ∧ v ≤ 255) →
    i < parts.length → (¬ ∃ v, Denotes kind (parts.getD i []) v ∧ v ≤ 255) →
    exec (.addrFromStr kind ([delimiter kind].intercalate parts)) s = .next { s with response := some (.error (.octet i)) }

/-- R118: an IP address renders as its four shortest decimal numerals, a MAC address as six pairs of hexadecimal digits, in
lower case (D22, log entry 13), joined by the delimiter. -/
def Obligations.ToStrRendersOctets : Prop :=
  (∀ (b : Bytes4) (s : State),
    exec (.addrToStr ⟨.ip b⟩) s = .next { s with response := some (.ok (.text ([0x2e].intercalate
      ((bytes4List b).map fun v => (Nat.toDigits 10 v.toNat).map fun c => BitVec.ofNat 8 c.toNat)))) }) ∧
  (∀ (b : Bytes6) (s : State),
    exec (.addrToStr ⟨.mac b⟩) s = .next { s with response := some (.ok (.text ([0x3a].intercalate
      ((bytes6List b).map fun v => [v.toNat / 16, v.toNat % 16].map fun d => BitVec.ofNat 8 (Nat.digitChar d).toNat)))) })

/-- R120: reading back what `ADDR.TO_STR` wrote gives the address, for every address. -/
def Obligations.FromStrInvertsToStr : Prop :=
  ∀ (a : Addr) (s : State), ∃ t : Text,
    exec (.addrToStr a) s = .next { s with response := some (.ok (.text t)) } ∧
    exec (.addrFromStr (octetsKind a.oct) t) s = .next { s with response := some (.ok (.addr a)) }

/-! ### ARP (41_arp.md) -/

/-- R131: each field of the record is the operand of the same name; nothing is checked. -/
def Obligations.ArpNewTakesOperands : Prop :=
  ∀ (htype ptype : U16) (hlen plen : Byte) (oper : U16) (sha : Bytes6) (spa : Bytes4) (tha : Bytes6) (tpa : Bytes4)
    (s : State), ∃ m : ArpMsg,
    exec (.arpNew htype ptype hlen plen oper sha spa tha tpa) s = .next { s with response := some (.ok (.arp m)) } ∧
    m.htype = htype ∧ m.ptype = ptype ∧ m.hlen = hlen ∧ m.plen = plen ∧ m.oper = oper ∧
    m.sha = sha ∧ m.spa = spa ∧ m.tha = tha ∧ m.tpa = tpa

/-- R71, R133: the 28 bytes of a serialised message, each at its offset; a big-endian pair is given by its value.
That the layout row delivers these bytes is the model's (log entry 3). -/
def Obligations.ArpSerializeWritesLayout : Prop :=
  ∀ (m : ArpMsg) (s : State), ∃ b : Buffer,
    exec (.arpSerialize m) s = .next { s with response := some (.ok (.buffer b)) } ∧
    exec (.wireArp m) s = .next { s with response := some (.ok (.buffer b)) } ∧
    b.length = 28 ∧ memRead b 0 2 = m.htype.toNat ∧ memRead b 2 2 = m.ptype.toNat ∧
    memRead b 4 1 = m.hlen.toNat ∧ memRead b 5 1 = m.plen.toNat ∧ memRead b 6 2 = m.oper.toNat ∧
    slice b 8 14 = bytes6List m.sha ∧ slice b 14 18 = bytes4List m.spa ∧
    slice b 18 24 = bytes6List m.tha ∧ slice b 24 28 = bytes4List m.tpa

/-- R132: of 28 bytes or more, the nine fields at the offsets 0, 2, 4, 5, 6, 8, 14, 18, 24; of fewer, the model's stop
(D18, U3). -/
def Obligations.ArpParseReadsOffsets : Prop :=
  (∀ (b : Buffer) (s : State), 28 ≤ b.length → ∃ m : ArpMsg,
    exec (.arpParse b) s = .next { s with response := some (.ok (.arp m)) } ∧
    m.htype.toNat = memRead b 0 2 ∧ m.ptype.toNat = memRead b 2 2 ∧ m.hlen.toNat = memRead b 4 1 ∧
    m.plen.toNat = memRead b 5 1 ∧ m.oper.toNat = memRead b 6 2 ∧
    bytes6List m.sha = slice b 8 14 ∧ bytes4List m.spa = slice b 14 18 ∧
    bytes6List m.tha = slice b 18 24 ∧ bytes4List m.tpa = slice b 24 28) ∧
  (∀ (b : Buffer) (s : State), b.length < 28 → exec (.arpParse b) s = .fault .arpShortInput)

/-- R139: parse after serialise is the identity on records, and serialise after parse gives the first 28 bytes. -/
def Obligations.ArpCodecRoundTrips : Prop :=
  (∀ (m : ArpMsg) (s : State), ∃ b : Buffer,
    exec (.arpSerialize m) s = .next { s with response := some (.ok (.buffer b)) } ∧
    exec (.arpParse b) s = .next { s with response := some (.ok (.arp m)) }) ∧
  (∀ (b : Buffer) (s : State), 28 ≤ b.length → ∃ m : ArpMsg,
    exec (.arpParse b) s = .next { s with response := some (.ok (.arp m)) } ∧
    exec (.arpSerialize m) s = .next { s with response := some (.ok (.buffer (b.take 28))) })

/-- R134: the accessors (five of the nine are the spec's decision D25). -/
def Obligations.ArpGetReturnsFields : Prop :=
  ∀ (m : ArpMsg) (f : ArpField) (s : State), exec (.arpGet m f) s = .next { s with response := some (.ok (
    match f with
    | .htype => .u16 m.htype | .ptype => .u16 m.ptype | .hlen => .u8 m.hlen | .plen => .u8 m.plen | .oper => .u16 m.oper
    | .sha => .octets (.mac m.sha) | .spa => .octets (.ip m.spa)
    | .tha => .octets (.mac m.tha) | .tpa => .octets (.ip m.tpa))) }

/-- R135: the request's nine fields; its numbers are the parameters of R10 that the spec marks as general knowledge (D12, log
entry 7). -/
def Obligations.ArpMkreqBuildsRequest : Prop :=
  ∀ (localMac : Bytes6) (localIp remoteIp : Bytes4) (s : State),
    exec (.arpMkreq localMac localIp remoteIp) s = .next { s with response := some (.ok (.arp
      { htype := 1, ptype := 0x0800, hlen := 6, plen := 4, oper := 1, sha := localMac, spa := localIp,
        tha := ⟨0, 0, 0, 0, 0, 0⟩, tpa := remoteIp })) }

/-- R137: when `send` is accepted and a frame of 28 bytes or more is the first to arrive, the result is the six bytes at
offset 8 of it, whatever the frame holds and whatever was asked for. That a `send` with no prepared answer is accepted is the
model's choice (log entry 11). -/
def Obligations.ResolveAcceptsFirstFrame : Prop :=
  ∀ (remoteIp : Bytes4) (localMac : Bytes6) (localIp : Bytes4) (iface : Text) (payload : Buffer) (rest : List RecvEvent)
    (s : State), s.env.arp.txAnswers.head?.join = none → s.env.arp.rx = .frame payload :: rest → 28 ≤ payload.length →
    ∃ (t : State) (r : Bytes6), exec (.arpResolve remoteIp localMac localIp iface) s = .next t ∧
      t.response = some (.ok (.octets (.mac r))) ∧ bytes6List r = slice payload 8 14

/-- R136: the whole effect of a resolution that completes: one broadcast of the request's 28 bytes is sent, one frame is
consumed, no counter changes. The request's numbers rest on D12 (log entry 7), what a failed or unanswered `send` oracle does on
log entry 11. -/
def Obligations.ResolveSendsOnceReceivesOnce : Prop :=
  ∀ (remoteIp : Bytes4) (localMac : Bytes6) (localIp : Bytes4) (iface : Text) (payload : Buffer) (rest : List RecvEvent)
    (s : State), s.env.arp.txAnswers.head?.join = none → s.env.arp.rx = .frame payload :: rest → 28 ≤ payload.length →
    ∃ r : Bytes6, bytes6List r = slice payload 8 14 ∧
      exec (.arpResolve remoteIp localMac localIp iface) s = .next
        { s with
          response := some (.ok (.octets (.mac r)))
          awaitingArp := false
          env := { s.env with arp :=
            { rx := rest
              txAnswers := s.env.arp.txAnswers.tail
              sent := s.env.arp.sent ++
                [⟨iface, ⟨0xff, 0xff, 0xff, 0xff, 0xff, 0xff⟩, requestBytes localMac localIp remoteIp⟩] } } }

/-- R136, R138, R252: with no frame available one broadcast of the request's 28 bytes is sent and the operation waits (the state
is given whole); the wait is no error and no timeout ends it, however many steps are taken, and the first frame of 28 bytes or
more completes it. The form of the wait is the model's (log entry 2), and so is that a `send` with no prepared answer is
accepted (log entry 11); the request's numbers rest on D12 (log entry 7). -/
def Obligations.ResolveWaitsWithoutBound : Prop :=
  ∀ (remoteIp : Bytes4) (localMac : Bytes6) (localIp : Bytes4) (iface : Text) (s : State),
    s.env.arp.txAnswers.head?.join = none → s.env.arp.rx = [] →
    ∃ t : State, exec (.arpResolve remoteIp localMac localIp iface) s = .next t ∧
      t = { s with
        response := none
        awaitingArp := true
        env := { s.env with arp :=
          { rx := []
            txAnswers := s.env.arp.txAnswers.tail
            sent := s.env.arp.sent ++
              [⟨iface, ⟨0xff, 0xff, 0xff, 0xff, 0xff, 0xff⟩, requestBytes localMac localIp remoteIp⟩] } } } ∧
      (∀ k, Host.Core.run Sys2Proof.core k t = .next t) ∧
      (∀ payload : Buffer, 28 ≤ payload.length → ∃ r : Bytes6, bytes6List r = slice payload 8 14 ∧
        step (arpArrival (.frame payload) t) =
          .next { t with response := some (.ok (.octets (.mac r))), awaitingArp := false })

/-- R245, R246: a failing `send` is reported with its text and `recv` is not called; a failing `recv` is reported with its text
after the request was sent; a frame of fewer than 28 bytes is the model's stop (R138, U3). The last two hold alike when the
operation has been waiting and a step ends the wait. No counter changes: each next state is given whole. A `send` with no
prepared answer is accepted and a failed one sends nothing (log entry 11); the wait is log entry 2; the request's numbers rest
on D12 (log entry 7). -/
def Obligations.ResolveReportsTransportErrors : Prop :=
  ∀ (remoteIp : Bytes4) (localMac : Bytes6) (localIp : Bytes4) (iface : Text) (s : State),
    (∀ text answers, s.env.arp.txAnswers = some text :: answers →
      exec (.arpResolve remoteIp localMac localIp iface) s = .next
        { s with
          response := some (.error (.transport text))
          env := { s.env with arp := { s.env.arp with txAnswers := answers } } }) ∧
    (∀ text rest, s.env.arp.txAnswers.head?.join = none → s.env.arp.rx = .failure text :: rest →
      exec (.arpResolve remoteIp localMac localIp iface) s = .next
        { s with
          response := some (.error (.transport text))
          awaitingArp := false
          env := { s.env with arp :=
            { rx := rest
              txAnswers := s.env.arp.txAnswers.tail
              sent := s.env.arp.sent ++
                [⟨iface, ⟨0xff, 0xff, 0xff, 0xff, 0xff, 0xff⟩, requestBytes localMac localIp remoteIp⟩] } } }) ∧
    (∀ payload rest, s.env.arp.txAnswers.head?.join = none → s.env.arp.rx = .frame payload :: rest →
      payload.length < 28 → exec (.arpResolve remoteIp localMac localIp iface) s = .fault .arpShortInput) ∧
    (∀ text rest, s.awaitingArp = true → s.env.arp.rx = .failure text :: rest → step s = .next
      { s with
        response := some (.error (.transport text))
        awaitingArp := false
        env := { s.env with arp := { s.env.arp with rx := rest } } }) ∧
    (∀ payload rest, s.awaitingArp = true → s.env.arp.rx = .frame payload :: rest → payload.length < 28 →
      step s = .fault .arpShortInput)

/-! ### The Internet checksum (42_ipv4.md R150 to R152) -/

/-- R150, R152 (d): the result is the complement of the word sum taken modulo 0xFFFF with 0xFFFF for a non-zero multiple; the
sum is exact (D10, log entry 12), and a buffer of 131072 bytes or more is refused (U9). -/
def Obligations.ChecksumIsComplementOfFoldedSum : Prop :=
  (∀ (b : Buffer) (s : State), b.length < 131072 → ∃ c : U16,
    exec (.cksum16 b) s = .next { s with response := some (.ok (.u16 c)) } ∧
    c.toNat = 0xFFFF - foldedSum (indexedWordSum b)) ∧
  (∀ (b : Buffer) (s : State), 131072 ≤ b.length → exec (.cksum16 b) s = .refused .cksumBufferTooLong)

/-- R152 (a): writing the checksum into the field that was zero when it was computed makes the buffer verify to zero. -/
def Obligations.ChecksumWrittenBackVerifies : Prop :=
  ∀ (b : Buffer) (off : Nat) (c : U16) (s : State), b.length < 131072 → 2 * off + 2 ≤ b.length →
    memRead b (2 * off) 2 = 0 →
    exec (.cksum16 b) s = .next { s with response := some (.ok (.u16 c)) } →
    exec (.cksum16 (memWrite b (2 * off) 2 c.toNat)) s = .next { s with response := some (.ok (.u16 0)) }

/-- R152 (b), (c): the checksum depends on the multiset of words only, and padding with zeros changes nothing. -/
def Obligations.ChecksumIgnoresWordOrderAndZeroPadding : Prop :=
  (∀ (p q r : Buffer) (x y z w : Byte) (s : State), p.length % 2 = 0 → q.length % 2 = 0 →
    exec (.cksum16 (p ++ [x, y] ++ q ++ [z, w] ++ r)) s = exec (.cksum16 (p ++ [z, w] ++ q ++ [x, y] ++ r)) s) ∧
  (∀ (b : Buffer) (s : State), b.length % 2 = 0 → b.length + 2 < 131072 →
    exec (.cksum16 (b ++ [0, 0])) s = exec (.cksum16 b) s) ∧
  (∀ (b : Buffer) (s : State), b.length % 2 = 1 → b.length + 1 < 131072 →
    exec (.cksum16 (b ++ [0])) s = exec (.cksum16 b) s)

/-! ### IPv4 (42_ipv4.md R153 to R159) -/

/-- R153: every field of a built packet, for every value of the open identification (log entry 5); the checksum is that of the
header with its checksum field zero; a body over 65515 bytes is refused (D19, U5). The header's bytes are
taken from their layout row (log entry 3). -/
def Obligations.IpBuildFillsHeader : Prop :=
  (∀ (protocol : Byte) (srcIp dstIp : Bytes4) (body : Buffer) (s : State), body.length ≤ 65515 → ∃ p : IpPkt,
    exec (.ipBuild protocol srcIp dstIp body) s = .next { s with response := some (.ok (.ip p)) } ∧
    p.version = 4 ∧ p.ihl = 5 ∧ p.tos = 0 ∧ p.totLen.toNat = 20 + body.length ∧ p.id = Config.ipIdSentinel ∧
    p.frag = 0 ∧ p.ttl = 32 ∧ p.protocol = protocol ∧ p.saddr = srcIp ∧ p.daddr = dstIp ∧ p.body = body ∧
    (∀ h : Buffer, exec (.wireIpv4Hdr { p.toIpHdr with check := 0 }) s =
        .next { s with response := some (.ok (.buffer h)) } →
      exec (.cksum16 h) s = .next { s with response := some (.ok (.u16 p.check)) })) ∧
  (∀ (protocol : Byte) (srcIp dstIp : Bytes4) (body : Buffer) (s : State), 65515 < body.length →
    exec (.ipBuild protocol srcIp dstIp body) s = .refused .ipBodyTooLong)

/-- R154: of 20 bytes or more, the header fields at their offsets; the body is empty when `tot_len - ihl*4` is not positive,
the slice from `ihl*4` to `tot_len` when that lies inside the buffer, and otherwise the model's stop (D17, U4). -/
def Obligations.IpParseReadsHeaderAndBody : Prop :=
  ∀ (b : Buffer) (s : State), 20 ≤ b.length → ∃ h : IpHdr,
    h.version.toNat = memRead b 0 1 / 16 ∧ h.ihl.toNat = memRead b 0 1 % 16 ∧ h.tos.toNat = memRead b 1 1 ∧
    h.totLen.toNat = memRead b 2 2 ∧ h.id.toNat = memRead b 4 2 ∧ h.frag.toNat = memRead b 6 2 ∧
    h.ttl.toNat = memRead b 8 1 ∧ h.protocol.toNat = memRead b 9 1 ∧ h.check.toNat = memRead b 10 2 ∧
    bytes4List h.saddr = slice b 12 16 ∧ bytes4List h.daddr = slice b 16 20 ∧
    (h.totLen.toNat ≤ h.ihl.toNat * 4 →
      exec (.ipParse b) s = .next { s with response := some (.ok (.ip { toIpHdr := h, body := [] })) }) ∧
    (h.ihl.toNat * 4 < h.totLen.toNat → h.totLen.toNat ≤ b.length →
      exec (.ipParse b) s = .next { s with response := some (.ok (.ip
        { toIpHdr := h, body := (b.take h.totLen.toNat).drop (h.ihl.toNat * 4) })) }) ∧
    (h.ihl.toNat * 4 < h.totLen.toNat → b.length < h.totLen.toNat → exec (.ipParse b) s = .fault .ipBodyOutOfRange)

/-- R244: both parse operations raise `SizeError` with the length for a buffer shorter than 20 bytes, neither raises it for
another, and `ARP.PARSE` never does. -/
def Obligations.SizeErrorExactlyBelowTwentyBytes : Prop :=
  (∀ (b : Buffer) (s : State), b.length < 20 →
    exec (.ipParse b) s = .next { s with response := some (.error (.size b.length)) } ∧
    exec (.tcpParse b) s = .next { s with response := some (.error (.size b.length)) }) ∧
  (∀ (b : Buffer) (s t : State) (n : Nat), 20 ≤ b.length →
    (exec (.ipParse b) s = .next t → t.response ≠ some (.error (.size n))) ∧
    (exec (.tcpParse b) s = .next t → t.response ≠ some (.error (.size n)))) ∧
  (∀ (b : Buffer) (s t : State) (n : Nat), exec (.arpParse b) s = .next t → t.response ≠ some (.error (.size n)))

/-- R72, R73, R155: the 20 header bytes at their offsets, then the body; nothing is recomputed. That the layout row
delivers the header bytes is the model's (log entry 3). -/
def Obligations.IpMarshalWritesLayout : Prop :=
  ∀ (p : IpPkt) (s : State), ∃ h : Buffer,
    exec (.ipMarshal p) s = .next { s with response := some (.ok (.buffer (h ++ p.body))) } ∧
    exec (.wireIpv4Hdr p.toIpHdr) s = .next { s with response := some (.ok (.buffer h)) } ∧
    h.length = 20 ∧ memRead h 0 1 = p.version.toNat * 16 + p.ihl.toNat ∧ memRead h 1 1 = p.tos.toNat ∧
    memRead h 2 2 = p.totLen.toNat ∧ memRead h 4 2 = p.id.toNat ∧ memRead h 6 2 = p.frag.toNat ∧
    memRead h 8 1 = p.ttl.toNat ∧ memRead h 9 1 = p.protocol.toNat ∧ memRead h 10 2 = p.check.toNat ∧
    slice h 12 16 = bytes4List p.saddr ∧ slice h 16 20 = bytes4List p.daddr

/-- R158: parsing what was marshalled gives the packet back for every packet `IP.BUILD` builds and for every record with
`ihl = 5` and `tot_len = 20 + len(body)`; not for every record. -/
def Obligations.IpParseInvertsMarshal : Prop :=
  (∀ (protocol : Byte) (srcIp dstIp : Bytes4) (body : Buffer) (s : State), body.length ≤ 65515 → ∃ (p : IpPkt) (b : Buffer),
    exec (.ipBuild protocol srcIp dstIp body) s = .next { s with response := some (.ok (.ip p)) } ∧
    exec (.ipMarshal p) s = .next { s with response := some (.ok (.buffer b)) } ∧
    exec (.ipParse b) s = .next { s with response := some (.ok (.ip p)) }) ∧
  (∀ (p : IpPkt) (b : Buffer) (s : State), p.ihl = 5 → p.totLen.toNat = 20 + p.body.length →
    exec (.ipMarshal p) s = .next { s with response := some (.ok (.buffer b)) } →
    exec (.ipParse b) s = .next { s with response := some (.ok (.ip p)) }) ∧
  (∃ (p : IpPkt) (b : Buffer) (s : State),
    exec (.ipMarshal p) s = .next { s with response := some (.ok (.buffer b)) } ∧
    exec (.ipParse b) s ≠ .next { s with response := some (.ok (.ip p)) })

/-- R159: the checksum of a built packet is that of its header with the field zero, and changing any one byte of a header
outside the checksum field changes the checksum. -/
def Obligations.IpChecksumDetectsAnyByteChange : Prop :=
  (∀ (protocol : Byte) (srcIp dstIp : Bytes4) (body : Buffer) (p : IpPkt) (s : State),
    exec (.ipBuild protocol srcIp dstIp body) s = .next { s with response := some (.ok (.ip p)) } →
    exec (.cksum16 (ipHdrLayout { p.toIpHdr with check := 0 })) s = .next { s with response := some (.ok (.u16 p.check)) }) ∧
  (∀ (h : Buffer) (i : Nat) (x : Byte) (c d : U16) (s : State), h.length = 20 → memRead h 10 2 = 0 →
    i < 20 → i ≠ 10 → i ≠ 11 → x ≠ byteAt h i →
    exec (.cksum16 h) s = .next { s with response := some (.ok (.u16 c)) } →
    exec (.cksum16 (h.set i x)) s = .next { s with response := some (.ok (.u16 d)) } → c ≠ d)

/-- R156: every field of the record is observable (D25). -/
def Obligations.IpGetReturnsFields : Prop :=
  ∀ (p : IpPkt) (f : IpField) (s : State), exec (.ipGet p f) s = .next { s with response := some (.ok (
    match f with
    | .version => .u4 p.version | .ihl => .u4 p.ihl | .tos => .u8 p.tos | .totLen => .u16 p.totLen | .id => .u16 p.id
    | .frag => .u16 p.frag | .ttl => .u8 p.ttl | .protocol => .u8 p.protocol | .check => .u16 p.check
    | .saddr => .octets (.ip p.saddr) | .daddr => .octets (.ip p.daddr) | .body => .buffer p.body)) }

/-! ### TCP (43_tcp.md) -/

/-- R181: each field of the record is the operand of the same name; nothing is computed and nothing is checked. -/
def Obligations.TcpNewRawTakesOperands : Prop :=
  ∀ (sport dport : U16) (seq ackSeq : U32) (doff : BitVec 4) (rsv : BitVec 3) (flags : Flags) (window check urgPtr : U16)
    (options body : Buffer) (s : State), ∃ g : TcpSeg,
    exec (.tcpNewRaw sport dport seq ackSeq doff rsv flags window check urgPtr options body) s =
      .next { s with response := some (.ok (.tcp g)) } ∧
    g.sport = sport ∧ g.dport = dport ∧ g.seq = seq ∧ g.ackSeq = ackSeq ∧ g.doff = doff ∧ g.rsv = rsv ∧
    g.flags = flags ∧ g.window = window ∧ g.check = check ∧ g.urgPtr = urgPtr ∧ g.options = options ∧ g.body = body

/-- R182, R183, R185: every field of an auto-mode segment; the data offset is `(21 + len(options)) mod 16` (D6), `rsv` is 0 and
all nine flags are as given (D8, log entry 10); the checksum is what `CKSUM16` gives of the pseudo-header followed by the
marshalled segment with its checksum field zero (final complement: D9, log entry 12; the pseudo-header's bytes are taken from
its layout row, log entry 3); over 65515 bytes of options and body it is refused (D19, U6). -/
def Obligations.TcpNewAutoFillsHeader : Prop :=
  ∀ (srcIp dstIp : Bytes4) (sport dport : U16) (seq ackSeq : U32) (flags : Flags) (window urgPtr : U16)
    (options body : Buffer) (s : State),
    (options.length + body.length ≤ 65515 → ∃ g : TcpSeg,
      exec (.tcpNewAuto srcIp dstIp sport dport seq ackSeq flags window urgPtr options body) s =
        .next { s with response := some (.ok (.tcp g)) } ∧
      g.sport = sport ∧ g.dport = dport ∧ g.seq = seq ∧ g.ackSeq = ackSeq ∧
      g.doff.toNat = (21 + options.length) % 16 ∧ g.rsv = 0 ∧ g.flags = flags ∧ g.window = window ∧
      g.urgPtr = urgPtr ∧ g.options = options ∧ g.body = body ∧
      (∀ ph b : Buffer,
        exec (.wireTcpPseudo srcIp dstIp (BitVec.ofNat 16 (20 + options.length + body.length))) s =
          .next { s with response := some (.ok (.buffer ph)) } →
        exec (.tcpMarshal { g with check := 0 }) s = .next { s with response := some (.ok (.buffer b)) } →
        exec (.cksum16 (ph ++ b)) s = .next { s with response := some (.ok (.u16 g.check)) })) ∧
    (65515 < options.length + body.length →
      exec (.tcpNewAuto srcIp dstIp sport dport seq ackSeq flags window urgPtr options body) s =
        .refused .tcpSegmentTooLong)

/-- R78, R184: the twelve bytes of the pseudo-header; that the layout row delivers them is the model's (log entry 3). -/
def Obligations.PseudoHeaderLayout : Prop :=
  ∀ (srcIp dstIp : Bytes4) (len : U16) (s : State), ∃ b : Buffer,
    exec (.wireTcpPseudo srcIp dstIp len) s = .next { s with response := some (.ok (.buffer b)) } ∧
    b.length = 12 ∧ slice b 0 4 = bytes4List srcIp ∧ slice b 4 8 = bytes4List dstIp ∧
    memRead b 8 1 = 0 ∧ memRead b 9 1 = 6 ∧ memRead b 10 2 = len.toNat

/-- R185: a segment built in auto mode verifies: the checksum of its pseudo-header and its marshalled bytes, the stored
checksum included, is zero, for every length and parity of options and body (the final complement is D9, log entry 12; the
pseudo-header's bytes are taken from its layout row, log entry 3). -/
def Obligations.BuiltSegmentVerifiesToZero : Prop :=
  ∀ (srcIp dstIp : Bytes4) (sport dport : U16) (seq ackSeq : U32) (flags : Flags) (window urgPtr : U16)
    (options body : Buffer) (s : State), options.length + body.length ≤ 65515 → ∃ (g : TcpSeg) (ph b : Buffer),
    exec (.tcpNewAuto srcIp dstIp sport dport seq ackSeq flags window urgPtr options body) s =
      .next { s with response := some (.ok (.tcp g)) } ∧
    exec (.wireTcpPseudo srcIp dstIp (BitVec.ofNat 16 (20 + options.length + body.length))) s =
      .next { s with response := some (.ok (.buffer ph)) } ∧
    exec (.tcpMarshal g) s = .next { s with response := some (.ok (.buffer b)) } ∧
    exec (.cksum16 (ph ++ b)) s = .next { s with response := some (.ok (.u16 0)) }

/-- R74 to R76, R186, R187: of 20 bytes or more, every header field and every flag bit at its place, with options and body
empty however long the input is (the bit positions are D7, log entry 10). -/
def Obligations.TcpParseReadsHeaderOnly : Prop :=
  ∀ (b : Buffer) (s : State), 20 ≤ b.length → ∃ g : TcpSeg,
    exec (.tcpParse b) s = .next { s with response := some (.ok (.tcp g)) } ∧
    g.sport.toNat = memRead b 0 2 ∧ g.dport.toNat = memRead b 2 2 ∧ g.seq.toNat = memRead b 4 4 ∧
    g.ackSeq.toNat = memRead b 8 4 ∧ g.doff.toNat = memRead b 12 1 / 16 ∧ g.rsv.toNat = memRead b 12 1 / 2 % 8 ∧
    g.flags.ns = (memRead b 12 1).testBit 0 ∧ g.flags.cwr = (memRead b 13 1).testBit 7 ∧
    g.flags.ece = (memRead b 13 1).testBit 6 ∧ g.flags.urg = (memRead b 13 1).testBit 5 ∧
    g.flags.ack = (memRead b 13 1).testBit 4 ∧ g.flags.psh = (memRead b 13 1).testBit 3 ∧
    g.flags.rst = (memRead b 13 1).testBit 2 ∧ g.flags.syn = (memRead b 13 1).testBit 1 ∧
    g.flags.fin = (memRead b 13 1).testBit 0 ∧ g.window.toNat = memRead b 14 2 ∧ g.check.toNat = memRead b 16 2 ∧
    g.urgPtr.toNat = memRead b 18 2 ∧ g.options = [] ∧ g.body = []

/-- R187: the options and the body of a parsed segment are empty regardless of the input's length. -/
def Obligations.TcpParseNeverExtractsPayload : Prop :=
  ∀ (b rest : Buffer) (s : State), 20 ≤ b.length →
    exec (.tcpParse (b ++ rest)) s = exec (.tcpParse b) s ∧
    ∃ g : TcpSeg, exec (.tcpParse b) s = .next { s with response := some (.ok (.tcp g)) } ∧ g.options = [] ∧ g.body = []

/-- R74 to R76, R188: the 20 header bytes, then options, then body, with nothing recomputed and nothing padded; the header
layout rows give the same bytes (the bit positions are D7, log entry 10; what a layout row does is log entry 3). -/
def Obligations.TcpMarshalWritesLayout : Prop :=
  ∀ (g : TcpSeg) (s : State), ∃ h c : Buffer,
    exec (.tcpMarshal g) s = .next { s with response := some (.ok (.buffer (h ++ g.options ++ g.body))) } ∧
    exec (.wireTcpHdr g.toTcpHdr) s = .next { s with response := some (.ok (.buffer h)) } ∧
    exec (.wireTcpCtrl g.doff g.rsv g.flags) s = .next { s with response := some (.ok (.buffer c)) } ∧
    h.length = 20 ∧ memRead h 0 2 = g.sport.toNat ∧ memRead h 2 2 = g.dport.toNat ∧ memRead h 4 4 = g.seq.toNat ∧
    memRead h 8 4 = g.ackSeq.toNat ∧ slice h 12 14 = c ∧ c.length = 2 ∧
    memRead c 0 1 = g.doff.toNat * 16 + g.rsv.toNat * 2 + g.flags.ns.toNat ∧
    memRead c 1 1 = g.flags.cwr.toNat * 0x80 + g.flags.ece.toNat * 0x40 + g.flags.urg.toNat * 0x20 +
      g.flags.ack.toNat * 0x10 + g.flags.psh.toNat * 0x08 + g.flags.rst.toNat * 0x04 + g.flags.syn.toNat * 0x02 +
      g.flags.fin.toNat * 0x01 ∧
    memRead h 14 2 = g.window.toNat ∧ memRead h 16 2 = g.check.toNat ∧ memRead h 18 2 = g.urgPtr.toNat

/-- R192: parse after marshal empties options and body and changes nothing else; marshal after parse gives the first 20
bytes. -/
def Obligations.TcpCodecRoundTrips : Prop :=
  (∀ (g : TcpSeg) (s : State), ∃ b : Buffer,
    exec (.tcpMarshal g) s = .next { s with response := some (.ok (.buffer b)) } ∧
    exec (.tcpParse b) s = .next { s with response := some (.ok (.tcp { g with options := [], body := [] })) }) ∧
  (∀ (b : Buffer) (s : State), 20 ≤ b.length → ∃ g : TcpSeg,
    exec (.tcpParse b) s = .next { s with response := some (.ok (.tcp g)) } ∧
    exec (.tcpMarshal g) s = .next { s with response := some (.ok (.buffer (b.take 20))) })

/-- R189: every header field, the nine flags as booleans, options and body, each as stored, and the two reserved-field views
(R77, D7, log entry 10). -/
def Obligations.TcpGetReturnsFields : Prop :=
  ∀ (g : TcpSeg) (f : TcpField) (s : State), ∃ v : Value,
    exec (.tcpGet g f) s = .next { s with response := some (.ok v) } ∧
    match f with
    | .sport => v = .u16 g.sport | .dport => v = .u16 g.dport | .seq => v = .u32 g.seq | .ackSeq => v = .u32 g.ackSeq
    | .doff => v = .u4 g.doff | .rsv => v = .u3 g.rsv
    | .res1 => ∃ r : BitVec 4, v = .u4 r ∧ r.toNat = g.rsv.toNat * 2 + g.flags.ns.toNat
    | .res2 => ∃ r : BitVec 2, v = .u2 r ∧ r.toNat = g.flags.cwr.toNat * 2 + g.flags.ece.toNat
    | .ns => v = .flag g.flags.ns | .cwr => v = .flag g.flags.cwr | .ece => v = .flag g.flags.ece
    | .urg => v = .flag g.flags.urg | .ack => v = .flag g.flags.ack | .psh => v = .flag g.flags.psh
    | .rst => v = .flag g.flags.rst | .syn => v = .flag g.flags.syn | .fin => v = .flag g.flags.fin
    | .window => v = .u16 g.window | .check => v = .u16 g.check | .urgPtr => v = .u16 g.urgPtr
    | .options => v = .buffer g.options | .body => v = .buffer g.body

/-! ### The Transmission Control Block (44_tcb.md) -/

/-- R211, R212: `TCB.INIT` sets ISS and SND.NXT to the time divided by 4, rounded down, modulo 2^32; that every natural number
is taken is the spec's choice D15 (log entry 16). -/
def Obligations.InitSetsIssAndSndNxtFromTime : Prop :=
  ∀ (tUs : Nat) (s : State), ∃ c : Tcb,
    exec (.tcbInit tUs) s = .next { s with tcb := c, response := some (.ok .unit) } ∧
    c.iss.toNat = tUs / 4 % 2 ^ 32 ∧ c.sndNxt.toNat = tUs / 4 % 2 ^ 32

/-- R42, R211: `TCB.INIT` leaves the other eight counters zero; for seven of them that is the spec's choice D13 (log entry
6). The next state is given whole. -/
def Obligations.InitZeroesOtherCounters : Prop :=
  ∀ (tUs : Nat) (s : State), exec (.tcbInit tUs) s = .next { s with
    response := some (.ok .unit)
    tcb := { sndUna := 0, sndNxt := BitVec.ofNat 32 (tUs / 4), sndUp := 0, sndWl1 := 0, sndWl2 := 0,
             iss := BitVec.ofNat 32 (tUs / 4), rcvNxt := 0, rcvWnd := 0, rcvUp := 0, irs := 0 } }

/-- R213: the segment is numbered by SND.NXT and RCV.NXT as they were, and the counters change by the six steps; every
addition is modulo 2^32 and a 16-bit operand is zero-extended (D14). The segment is the one `TCP.NEW_AUTO` builds. A send that
does not fit is refused, whatever the counters are (D19, U6). -/
def Obligations.SendNumbersSegmentAndAdvances : Prop :=
  ∀ (srcIp dstIp : Bytes4) (srcPort dstPort : U16) (flags : Flags) (window urgentPointer : U16) (options body : Buffer)
    (s : State),
    (options.length + body.length ≤ 65515 → ∃ (g : TcpSeg) (c : Tcb),
      exec (.tcbSend srcIp srcPort dstIp dstPort flags window urgentPointer options body) s =
        .next { s with tcb := c, response := some (.ok (.tcp g)) } ∧
      exec (.tcpNewAuto srcIp dstIp srcPort dstPort s.tcb.sndNxt s.tcb.rcvNxt flags window urgentPointer options body) s =
        .next { s with response := some (.ok (.tcp g)) } ∧
      c.sndUna = s.tcb.sndNxt ∧
      c.sndNxt.toNat = (s.tcb.sndNxt.toNat + (if flags.syn ∨ flags.fin then 1 else body.length)) % 2 ^ 32 ∧
      c.sndUp.toNat = (if flags.urg then urgentPointer.toNat else s.tcb.sndUp.toNat) ∧
      c.sndWl1.toNat = window.toNat ∧ c.sndWl2 = s.tcb.rcvNxt ∧ c.iss = s.tcb.iss ∧ c.rcvNxt = s.tcb.rcvNxt ∧
      c.rcvWnd = s.tcb.rcvWnd ∧ c.rcvUp = s.tcb.rcvUp ∧ c.irs = s.tcb.irs) ∧
    (65515 < options.length + body.length →
      exec (.tcbSend srcIp srcPort dstIp dstPort flags window urgentPointer options body) s =
        .refused .tcpSegmentTooLong)

/-- R221 (b): immediately after a send, SND.UNA is the `seq` of the returned segment and SND.WL2 its `ack_seq`. -/
def Obligations.SendLeavesUnaAndWl2OfSegment : Prop :=
  ∀ (srcIp dstIp : Bytes4) (srcPort dstPort : U16) (flags : Flags) (window urgentPointer : U16) (options body : Buffer)
    (s t : State) (g : TcpSeg),
    exec (.tcbSend srcIp srcPort dstIp dstPort flags window urgentPointer options body) s = .next t →
    t.response = some (.ok (.tcp g)) → t.tcb.sndUna = g.seq ∧ t.tcb.sndWl2 = g.ackSeq

/-- R216: the new RCV.NXT, row by row of the decision table. -/
def Obligations.RecvUpdatesRcvNxtByTable : Prop :=
  ∀ (g : TcpSeg) (s : State), ∃ t : State, exec (.tcbRecv g) s = .next t ∧
    ((g.flags.syn = true ∨ g.flags.fin = true) → t.tcb.rcvNxt = g.seq + 1) ∧
    (g.flags.syn = false → g.flags.fin = false → g.flags.ack = false → g.body = [] → t.tcb.rcvNxt = g.seq + 1) ∧
    (g.flags.syn = false → g.flags.fin = false → g.body ≠ [] →
      t.tcb.rcvNxt = g.seq + BitVec.ofNat 32 g.body.length) ∧
    (g.flags.syn = false → g.flags.fin = false → g.flags.ack = true → g.body = [] → t.tcb.rcvNxt = s.tcb.rcvNxt)

/-- R215: the other four steps of a receive and its frame: the send-side counters but SND.UNA are kept, the result is empty and
nothing outside the TCB changes (the additions modulo 2^32 are D14). -/
def Obligations.RecvUpdatesOtherCounters : Prop :=
  ∀ (g : TcpSeg) (s : State), ∃ c : Tcb,
    exec (.tcbRecv g) s = .next { s with tcb := c, response := some (.ok .unit) } ∧
    c.sndUna.toNat = (if g.flags.ack then (g.ackSeq.toNat + 1) % 2 ^ 32 else s.tcb.sndUna.toNat) ∧
    c.rcvWnd.toNat = g.window.toNat ∧
    c.rcvUp.toNat = (if g.flags.urg then g.urgPtr.toNat else s.tcb.rcvUp.toNat) ∧
    c.irs = (if g.flags.syn then g.seq else s.tcb.irs) ∧
    c.sndNxt = s.tcb.sndNxt ∧ c.sndUp = s.tcb.sndUp ∧ c.sndWl1 = s.tcb.sndWl1 ∧ c.sndWl2 = s.tcb.sndWl2 ∧
    c.iss = s.tcb.iss

/-- R215 (the source's example): after a SYN was sent and the peer's SYN+ACK of it received, SND.UNA is `ack_seq + 1` and
RCV.NXT is `reply.seq + 1`, so SND.UNA is one ahead of SND.NXT (R283). -/
def Obligations.HandshakeLeavesUnaAheadOfNxt : Prop :=
  ∀ (srcIp dstIp : Bytes4) (srcPort dstPort : U16) (flags : Flags) (window urgentPointer : U16) (options body : Buffer)
    (reply : TcpSeg) (s : State), flags.syn = true → options.length + body.length ≤ 65515 →
    reply.flags.syn = true → reply.flags.ack = true → reply.ackSeq = s.tcb.sndNxt + 1 →
    ∃ t u : State, exec (.tcbSend srcIp srcPort dstIp dstPort flags window urgentPointer options body) s = .next t ∧
      exec (.tcbRecv reply) t = .next u ∧ u.tcb.sndUna = reply.ackSeq + 1 ∧ u.tcb.rcvNxt = reply.seq + 1 ∧
      u.tcb.irs = reply.seq ∧ u.tcb.sndUna = u.tcb.sndNxt + 1

/-- R217: the value of each counter, and nothing changes (the operation is the spec's decision D25). -/
def Obligations.TcbGetReturnsCounter : Prop :=
  ∀ (c : Counter) (s : State), exec (.tcbGet c) s = .next { s with response := some (.ok (.u32 (
    match c with
    | .sndUna => s.tcb.sndUna | .sndNxt => s.tcb.sndNxt | .sndUp => s.tcb.sndUp | .sndWl1 => s.tcb.sndWl1
    | .sndWl2 => s.tcb.sndWl2 | .iss => s.tcb.iss | .rcvNxt => s.tcb.rcvNxt | .rcvWnd => s.tcb.rcvWnd
    | .rcvUp => s.tcb.rcvUp | .irs => s.tcb.irs))) }

/-- R221 (c): over any list of operations without `TCB.INIT` that runs to its end, SND.NXT grows, modulo 2^32, by one for
each send with SYN or FIN and by the body's length for each other send. -/
def Obligations.SndNxtCountsWhatWasSent : Prop :=
  ∀ (ops : List Instr) (s t : State), (∀ i ∈ ops, isInit i = false) → runOps ops s = .next t →
    t.tcb.sndNxt = s.tcb.sndNxt + BitVec.ofNat 32 (ops.map consumed).sum

/-! ### The whole machine -/

/-- R20, R58, R221 (a), (c), (d): which operations can change which counters. -/
def Obligations.CountersChangeOnlyByTheirOperations : Prop :=
  ∀ (i : Instr) (s t : State), exec i s = .next t →
    (writesTcb i = false → t.tcb = s.tcb) ∧
    (isInit i = false → t.tcb.iss = s.tcb.iss) ∧
    (isInit i = false → (∀ g, i ≠ .tcbRecv g) →
      t.tcb.rcvNxt = s.tcb.rcvNxt ∧ t.tcb.rcvWnd = s.tcb.rcvWnd ∧ t.tcb.rcvUp = s.tcb.rcvUp ∧ t.tcb.irs = s.tcb.irs) ∧
    (∀ g, i = .tcbRecv g → t.tcb.sndNxt = s.tcb.sndNxt ∧ t.tcb.sndUp = s.tcb.sndUp ∧
      t.tcb.sndWl1 = s.tcb.sndWl1 ∧ t.tcb.sndWl2 = s.tcb.sndWl2)

/-- R58, R271: an operation other than `TCB.SEND`, `TCB.GET` and `ARP.RESOLVE` gives the same result for the same operands in
every state, and no operation but `ARP.RESOLVE` touches the environment. -/
def Obligations.CodecResultsIgnoreState : Prop :=
  (∀ (i : Instr) (s s' t t' : State), readsTcb i = false → isResolve i = false →
    exec i s = .next t → exec i s' = .next t' → t.response = t'.response) ∧
  (∀ (i : Instr) (s t : State), isResolve i = false → exec i s = .next t →
    t.env = s.env ∧ t.awaitingArp = s.awaitingArp) ∧
  (∀ (i : Instr) (s t : State), exec i s = .next t → t.program = s.program ∧ t.env.ipv4 = s.env.ipv4 ∧
    t.env.locals = s.env.locals ∧ t.env.clock = s.env.clock)

/-- R246, R249: an operation that reports an error has changed no counter, and outside `ARP.RESOLVE` nothing at all but the
response (D4). -/
def Obligations.ErrorsArePrecise : Prop :=
  ∀ (i : Instr) (s t : State) (e : OpError), exec i s = .next t → t.response = some (.error e) →
    t.tcb = s.tcb ∧ (isResolve i = false → t = { s with response := some (.error e) })

/-- R241: which operation can report which error; no other operation reports one. -/
def Obligations.ErrorsOnlyFromListedOperations : Prop :=
  ∀ (i : Instr) (s t : State) (e : OpError), exec i s = .next t → t.response = some (.error e) →
    match e with
    | .delimiterCount _ => ∃ kind x, i = .addrFromStr kind x
    | .octet _ => ∃ kind x, i = .addrFromStr kind x
    | .size n => n < 20 ∧ ∃ b : Buffer, b.length = n ∧ (i = .ipParse b ∨ i = .tcpParse b)
    | .transport _ => isResolve i = true

/-- R261, U3 to U6, U9: the complete list of the cases in which an operation stops; in every other case it completes. The
stops are the spec's decisions D17 to D19 (log entry 15). Counted as completing by the model's choice: an `ARP.RESOLVE` that
waits (log entry 2) and the layout rows (log entry 3); a `send` with no prepared answer counts as accepted (log entry 11). -/
def Obligations.StopsExactlyInTheListedCases : Prop :=
  ∀ (i : Instr) (s : State), ¬ Completes (exec i s) ↔
    (∃ b, i = .arpParse b ∧ b.length < 28) ∨
    (∃ b, i = .ipParse b ∧ 20 ≤ b.length ∧ memRead b 0 1 % 16 * 4 < memRead b 2 2 ∧ b.length < memRead b 2 2) ∨
    (∃ protocol srcIp dstIp body, i = .ipBuild protocol srcIp dstIp body ∧ 65515 < body.length) ∨
    (∃ srcIp dstIp sport dport seq ackSeq flags window urgPtr options body,
      i = .tcpNewAuto srcIp dstIp sport dport seq ackSeq flags window urgPtr options body ∧
      65515 < options.length + body.length) ∨
    (∃ srcIp srcPort dstIp dstPort flags window urgentPointer options body,
      i = .tcbSend srcIp srcPort dstIp dstPort flags window urgentPointer options body ∧
      65515 < options.length + body.length) ∨
    (∃ b, i = .cksum16 b ∧ 131072 ≤ b.length) ∨
    (isResolve i = true ∧ s.env.arp.txAnswers.head?.join = none ∧
      ∃ payload rest, s.env.arp.rx = .frame payload :: rest ∧ payload.length < 28)

/-- R42, R270: the state after power-on is that of one `TCB.INIT` at the time the environment draws, whatever it is; the host
has issued nothing and nothing has been delivered. Seven of the zeros are D13 (log entry 6), the rest of the environment is the
model's (log entry 4). -/
def Obligations.ResetIsOneTcbInit : Prop :=
  State.reset = State.resetAt Config.powerOnTime ∧
  ∀ tUs : Nat, (State.resetAt tUs).tcb =
      { sndUna := 0, sndNxt := BitVec.ofNat 32 (tUs / 4), sndUp := 0, sndWl1 := 0, sndWl2 := 0,
        iss := BitVec.ofNat 32 (tUs / 4), rcvNxt := 0, rcvWnd := 0, rcvUp := 0, irs := 0 } ∧
    (State.resetAt tUs).response = none ∧ (State.resetAt tUs).awaitingArp = false ∧ (State.resetAt tUs).program = [] ∧
    (State.resetAt tUs).env.clock = tUs ∧
    ∀ s : State, exec (.tcbInit tUs) s =
      .next { s with tcb := (State.resetAt tUs).tcb, response := some (.ok .unit) }

/-- The invariant holds after reset. Its four 16-bit parts rest on the zeros of D13, an unsafe choice of the spec (log entry 6),
its part on the ARP transport on the empty log of log entry 4. -/
def Obligations.ResetMeetsInvariant : Prop := ∀ tUs : Nat, Inv (State.resetAt tUs)

/-- Every step from every state that meets the invariant leads to a state that meets it. That `TCB.INIT` keeps the four 16-bit
parts (R42, R211) rests on the zeros of D13, an unsafe choice of the spec (log entry 6); the part on the wait on the form of
the wait (log entry 2); the part on the frames sent on the request's numbers (D12, log entry 7). -/
def Obligations.StepKeepsInvariant : Prop :=
  ∀ s t : State, Inv s → step s = .next t → Inv t

/-- R31, R57: a step with no operation in progress runs the operation that the host's next request decodes to, in the state in
which that request is no longer pending and the previous status is gone (R33). The request format is the model's (log entry 1). -/
def Obligations.StepRunsDecodedRequest : Prop :=
  ∀ (request : Buffer) (pending : List Buffer) (i : Instr) (rest : Buffer) (s : State),
    s.awaitingArp = false → s.program = request :: pending → decode request = .ok (i, rest) →
    step s = exec i { s with program := pending, response := none }

/-- R92: a request whose command code is in no row of the code table is refused (D2). With no request the block is idle (R249,
log entry 2). -/
def Obligations.StepRefusesUnassignedCodes : Prop :=
  (∀ (code : Byte) (operands : Buffer) (pending : List Buffer) (s : State),
    code ∉ ([0x01, 0x02, 0x03, 0x04, 0x05, 0x06, 0x10, 0x11, 0x12, 0x13, 0x14, 0x15, 0x20, 0x21, 0x22, 0x23, 0x24,
      0x30, 0x31, 0x32, 0x33, 0x34, 0x40, 0x41, 0x42, 0x43] : List Byte) →
    s.awaitingArp = false → s.program = (code :: operands) :: pending →
    step s = .refused (.unassignedCommand (code :: operands))) ∧
  (∀ s : State, s.awaitingArp = false → s.program = [] → step s = .next s)

/-- Every operation that can be issued is read back from its request, with every operand, whatever follows the request (the
operand format is the model's, log entry 1; the command codes are R91, D2). -/
def Obligations.DecodeInvertsEncode : Prop :=
  ∀ (i : Instr) (rest : Buffer), i.wellFormed = true → decode (encode i ++ rest) = .ok (i, rest)

/-- A placed table word runs next: the step after `withFetchWord` is the execution of the instruction the decoder reads from
the word. -/
def Obligations.PlacedTableWordRunsNext : Prop :=
  ∀ (nbits w : Nat) (i : Instr) (s : State), decodeTableWord nbits w = some i →
    step (s.withFetchWord nbits w) = exec i { s with awaitingArp := false, response := none }

/-- R31, R61: a program of well-formed operations, issued by the host as requests, runs in its order and to the same end as the
operations executed one after another, one step each, when none of them waits. -/
def Obligations.ProgramRunsInHostOrder : Prop :=
  ∀ (ops : List Instr) (s : State), (∀ i ∈ ops, i.wellFormed = true ∧ isResolve i = false) →
    s.awaitingArp = false → s.program = ops.map encode →
    Host.Core.run Sys2Proof.core ops.length s = runOps ops s

/-- R91, R92: one request word of each family written out, with the operand bytes the word gives (the protocol 6 and the
counter's index 1) and zeros above, decodes to its operation; three unassigned codes decode to nothing. The codes are D2's, the
operand bytes log entry 1's. -/
def Obligations.SomeRequestWordsDecode : Prop :=
  decodeTableWord 8 0x01 = some (.addrFromHost (.ip ⟨0, 0, 0, 0⟩)) ∧
  decodeTableWord 8 0x15 = some (.arpResolve ⟨0, 0, 0, 0⟩ ⟨0, 0, 0, 0, 0, 0⟩ ⟨0, 0, 0, 0⟩ []) ∧
  decodeTableWord 16 0x0621 = some (.ipBuild 6 ⟨0, 0, 0, 0⟩ ⟨0, 0, 0, 0⟩ []) ∧
  decodeTableWord 8 0x32 = some (.tcpParse []) ∧
  decodeTableWord 16 0x0143 = some (.tcbGet .sndNxt) ∧
  decodeTableWord 8 0x00 = none ∧ decodeTableWord 8 0x07 = none ∧ decodeTableWord 8 0xff = none
end

