-- ==== Sys2Proof/Laws/Bytes.lean ====
section
/-! SUPPORT. The laws of the byte primitives and of the four layouts: lengths, a field read back from what was written, and
bytes written back from what was read. -/

namespace Sys2Proof.Machine

open Sys2Proof

/-! ### Lengths -/

@[simp] theorem put16_length (v : U16) : (put16 v).length = 2 := rfl
@[simp] theorem put32_length (v : U32) : (put32 v).length = 4 := rfl
@[simp] theorem bytes4List_length (b : Bytes4) : (bytes4List b).length = 4 := rfl
@[simp] theorem bytes6List_length (b : Bytes6) : (bytes6List b).length = 6 := rfl
@[simp] theorem arpLayout_length (m : ArpMsg) : (arpLayout m).length = 28 := rfl
@[simp] theorem ipHdrLayout_length (h : IpHdr) : (ipHdrLayout h).length = 20 := rfl
@[simp] theorem tcpHdrLayout_length (h : TcpHdr) : (tcpHdrLayout h).length = 20 := rfl
@[simp] theorem pseudoHeader_length (a b : Bytes4) (n : U16) : (pseudoHeader a b n).length = 12 := rfl

/-! ### Integers and their bytes -/

/-- Concatenation as arithmetic: the left operand is the more significant one (R12). -/
theorem append_toNat {n m : Nat} (x : BitVec n) (y : BitVec m) : (x ++ y).toNat = x.toNat * 2 ^ m + y.toNat := by
  rw [BitVec.toNat_append, ← Nat.shiftLeft_add_eq_or_of_lt y.isLt, Nat.shiftLeft_eq]

/-- A slice of bits as arithmetic (R12). -/
theorem extract_toNat {n : Nat} (x : BitVec n) (lo len : Nat) :
    (x.extractLsb' lo len).toNat = x.toNat / 2 ^ lo % 2 ^ len := by
  rw [BitVec.extractLsb'_toNat, Nat.shiftRight_eq_div_pow]

theorem join16 (v : U16) : v.extractLsb' 8 8 ++ v.extractLsb' 0 8 = v := by
  apply BitVec.eq_of_toNat_eq; have := v.isLt
  simp only [append_toNat, extract_toNat]; omega

theorem join32 (v : U32) :
    v.extractLsb' 24 8 ++ v.extractLsb' 16 8 ++ v.extractLsb' 8 8 ++ v.extractLsb' 0 8 = v := by
  apply BitVec.eq_of_toNat_eq; have := v.isLt
  simp only [append_toNat, extract_toNat]; omega

theorem join4 (v : BitVec 8) : v.extractLsb' 4 4 ++ v.extractLsb' 0 4 = v := by
  apply BitVec.eq_of_toNat_eq; have := v.isLt
  simp only [append_toNat, extract_toNat]; omega

theorem put16_append (x y : Byte) : put16 (x ++ y) = [x, y] := by
  have hx := x.isLt; have hy := y.isLt
  simp only [put16, List.cons.injEq, and_true]
  constructor <;> apply BitVec.eq_of_toNat_eq <;> simp only [append_toNat, extract_toNat] <;> omega

theorem put32_append (x y z w : Byte) : put32 (x ++ y ++ z ++ w) = [x, y, z, w] := by
  have hx := x.isLt; have hy := y.isLt; have hz := z.isLt; have hw := w.isLt
  simp only [put32, List.cons.injEq, and_true]
  refine ⟨?_, ?_, ?_, ?_⟩ <;> apply BitVec.eq_of_toNat_eq <;> simp only [append_toNat, extract_toNat] <;> omega

/-- `be16` is the two-byte `MemRead` (R14). -/
theorem be16_toNat (b : Buffer) (off : Nat) : (be16 b off).toNat = memRead b off 2 := by
  simp only [be16, memRead, append_toNat]; omega

/-- `be32` is the four-byte `MemRead` (R14). -/
theorem be32_toNat (b : Buffer) (off : Nat) : (be32 b off).toNat = memRead b off 4 := by
  simp only [be32, memRead, append_toNat, show off + 1 + 1 = off + 2 from rfl, show off + 2 + 1 = off + 3 from rfl]; omega

/-- `put16(v)` holds `v` (R14). -/
theorem memRead_put16 (v : U16) (rest : Buffer) : memRead (put16 v ++ rest) 0 2 = v.toNat := by
  rw [← be16_toNat]
  exact congrArg BitVec.toNat (join16 v)

/-- `put32(v)` holds `v` (R14). -/
theorem memRead_put32 (v : U32) (rest : Buffer) : memRead (put32 v ++ rest) 0 4 = v.toNat := by
  rw [← be32_toNat]
  exact congrArg BitVec.toNat (join32 v)

/-! ### The control bytes (R75, R76) -/

@[simp] theorem doffOf_ctrlByte12 (d : BitVec 4) (r : BitVec 3) (f : Flags) : doffOf (ctrlByte12 d r f) = d := by
  have hd := d.isLt; have hr := r.isLt
  apply BitVec.eq_of_toNat_eq
  have hn := (BitVec.ofBool f.ns).isLt
  simp only [doffOf, ctrlByte12, append_toNat, extract_toNat]; omega

@[simp] theorem rsvOf_ctrlByte12 (d : BitVec 4) (r : BitVec 3) (f : Flags) : rsvOf (ctrlByte12 d r f) = r := by
  have hd := d.isLt; have hr := r.isLt
  apply BitVec.eq_of_toNat_eq
  have hn := (BitVec.ofBool f.ns).isLt
  simp only [rsvOf, ctrlByte12, append_toNat, extract_toNat]; omega

theorem ns_ctrlByte12 (d : BitVec 4) (r : BitVec 3) (f : Flags) : (ctrlByte12 d r f).getLsbD 0 = f.ns := by
  have hr := (d ++ r).isLt
  have h : (ctrlByte12 d r f).toNat % 2 = f.ns.toNat := by
    simp only [ctrlByte12, append_toNat]; cases f.ns <;> simp
  rw [BitVec.getLsbD, Nat.testBit_zero, h]; cases f.ns <;> rfl

@[simp] theorem flagsOf_ctrlBytes (d : BitVec 4) (r : BitVec 3) (f : Flags) :
    flagsOf (ctrlByte12 d r f) (ctrlByte13 f) = f := by
  rcases f with ⟨ns, c, e, u, a, p, r', s, n⟩
  simp only [flagsOf, ns_ctrlByte12, ctrlByte13]
  revert ns c e u a p r' s n
  decide

theorem ctrlByte12_fields (x : Byte) (y : Byte) : ctrlByte12 (doffOf x) (rsvOf x) (flagsOf x y) = x := by
  revert x; simp only [flagsOf, ctrlByte12, doffOf, rsvOf]; decide

theorem ctrlByte13_fields (x : Byte) (y : Byte) : ctrlByte13 (flagsOf x y) = y := by
  revert y; simp only [flagsOf, ctrlByte13]; decide

/-! ### The layouts, read back and written back (R139, R192) -/

/-- The first `n` bytes of a buffer, byte by byte. -/
theorem take_eq_map_byteAt {n : Nat} {b : Buffer} (h : n ≤ b.length) : b.take n = (List.range n).map (byteAt b) := by
  apply List.ext_getElem
  · simp [h]
  · intro i hi _
    have : i < b.length := by simp at hi; omega
    simp [byteAt, List.getD_eq_getElem?_getD, this]

/-- One byte as a `MemRead`. -/
theorem memRead_one (b : Buffer) (off : Nat) : memRead b off 1 = (byteAt b off).toNat := by simp [memRead]

/-- Two bytes as a `MemRead`. -/
theorem memRead_two (b : Buffer) (off : Nat) :
    memRead b off 2 = (byteAt b off).toNat * 256 + (byteAt b (off + 1)).toNat := by simp [memRead]

/-- The four bytes at an offset, as a slice. -/
theorem bytes4List_at (b : Buffer) (off : Nat) (h : off + 4 ≤ b.length) :
    bytes4List (bytes4At b off) = slice b off (off + 4) := by
  have e : (b.drop off).take 4 = (List.range 4).map (byteAt (b.drop off)) := take_eq_map_byteAt (by simp; omega)
  simp only [slice, Nat.add_sub_cancel_left, e]
  simp [List.range_succ, bytes4List, bytes4At, byteAt, List.getD_eq_getElem?_getD]

/-- The six bytes at an offset, as a slice. -/
theorem bytes6List_at (b : Buffer) (off : Nat) (h : off + 6 ≤ b.length) :
    bytes6List (bytes6At b off) = slice b off (off + 6) := by
  have e : (b.drop off).take 6 = (List.range 6).map (byteAt (b.drop off)) := take_eq_map_byteAt (by simp; omega)
  simp only [slice, Nat.add_sub_cancel_left, e]
  simp [List.range_succ, bytes6List, bytes6At, byteAt, List.getD_eq_getElem?_getD]

/-- The word sum of two parts, when the first has an even length. -/
theorem wordSum_append_even : ∀ p q : Buffer, p.length % 2 = 0 → wordSum (p ++ q) = wordSum p + wordSum q
  | [], q, _ => by simp [wordSum]
  | [_], q, h => by simp at h
  | x :: y :: r, q, h => by
    have := wordSum_append_even r q (by simp at h; omega)
    simp only [List.cons_append, wordSum, this]; omega

/-- The word sum is at most 0xFFFF for each word. -/
theorem wordSum_le : ∀ b : Buffer, wordSum b ≤ (b.length + 1) / 2 * 65535
  | [] => by simp [wordSum]
  | [x] => by have := x.isLt; simp [wordSum]; omega
  | x :: y :: r => by
    have := wordSum_le r; have := x.isLt; have := y.isLt
    simp only [wordSum, List.length_cons]; omega

theorem arpFields_layout (m : ArpMsg) (rest : Buffer) : arpFields (arpLayout m ++ rest) = m := by
  have h : arpFields (arpLayout m ++ rest) =
      { m with
        htype := m.htype.extractLsb' 8 8 ++ m.htype.extractLsb' 0 8
        ptype := m.ptype.extractLsb' 8 8 ++ m.ptype.extractLsb' 0 8
        oper := m.oper.extractLsb' 8 8 ++ m.oper.extractLsb' 0 8 } := rfl
  rw [h]; simp only [join16]

theorem ipHdrFields_layout (p : IpHdr) (rest : Buffer) : ipHdrFields (ipHdrLayout p ++ rest) = p := by
  have h : ipHdrFields (ipHdrLayout p ++ rest) =
      { p with
        version := (p.version ++ p.ihl).extractLsb' 4 4
        ihl := (p.version ++ p.ihl).extractLsb' 0 4
        totLen := p.totLen.extractLsb' 8 8 ++ p.totLen.extractLsb' 0 8
        id := p.id.extractLsb' 8 8 ++ p.id.extractLsb' 0 8
        frag := p.frag.extractLsb' 8 8 ++ p.frag.extractLsb' 0 8
        check := p.check.extractLsb' 8 8 ++ p.check.extractLsb' 0 8 } := rfl
  have hv : (p.version ++ p.ihl).extractLsb' 4 4 = p.version := by
    apply BitVec.eq_of_toNat_eq; have := p.version.isLt; have := p.ihl.isLt
    simp only [append_toNat, extract_toNat]; omega
  have hi : (p.version ++ p.ihl).extractLsb' 0 4 = p.ihl := by
    apply BitVec.eq_of_toNat_eq; have := p.version.isLt; have := p.ihl.isLt
    simp only [append_toNat, extract_toNat]; omega
  rw [h, hv, hi]; simp only [join16]

theorem tcpHdrFields_layout (g : TcpHdr) (rest : Buffer) : tcpHdrFields (tcpHdrLayout g ++ rest) = g := by
  have h : tcpHdrFields (tcpHdrLayout g ++ rest) =
      { sport := g.sport.extractLsb' 8 8 ++ g.sport.extractLsb' 0 8
        dport := g.dport.extractLsb' 8 8 ++ g.dport.extractLsb' 0 8
        seq := g.seq.extractLsb' 24 8 ++ g.seq.extractLsb' 16 8 ++ g.seq.extractLsb' 8 8 ++ g.seq.extractLsb' 0 8
        ackSeq := g.ackSeq.extractLsb' 24 8 ++ g.ackSeq.extractLsb' 16 8 ++ g.ackSeq.extractLsb' 8 8 ++
          g.ackSeq.extractLsb' 0 8
        doff := doffOf (ctrlByte12 g.doff g.rsv g.flags)
        rsv := rsvOf (ctrlByte12 g.doff g.rsv g.flags)
        flags := flagsOf (ctrlByte12 g.doff g.rsv g.flags) (ctrlByte13 g.flags)
        window := g.window.extractLsb' 8 8 ++ g.window.extractLsb' 0 8
        check := g.check.extractLsb' 8 8 ++ g.check.extractLsb' 0 8
        urgPtr := g.urgPtr.extractLsb' 8 8 ++ g.urgPtr.extractLsb' 0 8 } := rfl
  rw [h]; simp only [join16, join32, doffOf_ctrlByte12, rsvOf_ctrlByte12, flagsOf_ctrlBytes]

theorem arpLayout_fields (b : Buffer) (h : 28 ≤ b.length) : arpLayout (arpFields b) = b.take 28 := by
  rw [take_eq_map_byteAt h]
  simp only [arpLayout, arpFields, be16, put16_append]; rfl

theorem ipHdrLayout_fields (b : Buffer) (h : 20 ≤ b.length) : ipHdrLayout (ipHdrFields b) = b.take 20 := by
  rw [take_eq_map_byteAt h]
  simp only [ipHdrLayout, ipHdrFields, be16, put16_append, join4]; rfl

theorem tcpHdrLayout_fields (b : Buffer) (h : 20 ≤ b.length) : tcpHdrLayout (tcpHdrFields b) = b.take 20 := by
  rw [take_eq_map_byteAt h]
  simp only [tcpHdrLayout, tcpHdrFields, tcpCtrlLayout, be16, be32, put16_append, put32_append, ctrlByte12_fields,
    ctrlByte13_fields]
  rfl

end Sys2Proof.Machine
end

