-- ==== Sys2Proof/Laws/Counters.lean ====
section
/-! SUPPORT. The transition functions of the TCB as one record update each, so that no proof unfolds their steps. -/

namespace Sys2Proof.Machine

open Sys2Proof

/-- Everything `TCB.SEND` does to the counters (R213): five of the ten may change. -/
theorem sendCounters_eq (t : Tcb) (flags : Flags) (window urgentPointer : U16) (body : Buffer) :
    sendCounters t flags window urgentPointer body =
      { t with
        sndUna := t.sndNxt
        sndNxt := t.sndNxt + sendAdvance flags body
        sndUp := if flags.urg then urgentPointer.zeroExtend 32 else t.sndUp
        sndWl1 := window.zeroExtend 32
        sndWl2 := t.rcvNxt } := by
  unfold sendCounters; cases flags.urg <;> rfl

/-- Everything `TCB.RECV` does to the counters (R215): five of the ten may change. -/
theorem recvCounters_eq (t : Tcb) (g : TcpSeg) :
    recvCounters t g =
      { t with
        sndUna := if g.flags.ack then g.ackSeq + 1 else t.sndUna
        rcvNxt := nextRcvNxt t.rcvNxt g
        rcvWnd := g.window.zeroExtend 32
        rcvUp := if g.flags.urg then g.urgPtr.zeroExtend 32 else t.rcvUp
        irs := if g.flags.syn then g.seq else t.irs } := by
  unfold recvCounters; cases g.flags.ack <;> cases g.flags.urg <;> cases g.flags.syn <;> rfl

/-- The advance of SND.NXT as the 32-bit form of one number. -/
theorem sendAdvance_eq_ofNat (flags : Flags) (body : Buffer) :
    sendAdvance flags body = BitVec.ofNat 32 (if flags.syn = true ∨ flags.fin = true then 1 else body.length) := by
  unfold sendAdvance; cases flags.syn <;> cases flags.fin <;> simp

end Sys2Proof.Machine
end

