-- ==== Sys2Proof/Laws/State.lean ====
section
/-! SUPPORT. One lemma per field per named update of the state, so that no later proof unfolds a record update. -/

namespace Sys2Proof.Machine

open Sys2Proof Sys2Proof.Safety

section setArp
variable (t : Transport) (s : State)

@[simp] theorem setArpTransport_tcb : (setArpTransport t s).tcb = s.tcb := rfl
@[simp] theorem setArpTransport_response : (setArpTransport t s).response = s.response := rfl
@[simp] theorem setArpTransport_awaitingArp : (setArpTransport t s).awaitingArp = s.awaitingArp := rfl
@[simp] theorem setArpTransport_program : (setArpTransport t s).program = s.program := rfl
@[simp] theorem setArpTransport_arp : (setArpTransport t s).env.arp = t := rfl
@[simp] theorem setArpTransport_ipv4 : (setArpTransport t s).env.ipv4 = s.env.ipv4 := rfl
@[simp] theorem setArpTransport_locals : (setArpTransport t s).env.locals = s.env.locals := rfl
@[simp] theorem setArpTransport_clock : (setArpTransport t s).env.clock = s.env.clock := rfl

@[simp] theorem setIpv4Transport_tcb : (setIpv4Transport t s).tcb = s.tcb := rfl
@[simp] theorem setIpv4Transport_response : (setIpv4Transport t s).response = s.response := rfl
@[simp] theorem setIpv4Transport_awaitingArp : (setIpv4Transport t s).awaitingArp = s.awaitingArp := rfl
@[simp] theorem setIpv4Transport_program : (setIpv4Transport t s).program = s.program := rfl
@[simp] theorem setIpv4Transport_arp : (setIpv4Transport t s).env.arp = s.env.arp := rfl
@[simp] theorem setIpv4Transport_ipv4 : (setIpv4Transport t s).env.ipv4 = t := rfl
@[simp] theorem setIpv4Transport_locals : (setIpv4Transport t s).env.locals = s.env.locals := rfl
@[simp] theorem setIpv4Transport_clock : (setIpv4Transport t s).env.clock = s.env.clock := rfl
end setArp

section issueState
variable (s : State)

@[simp] theorem issue_tcb : (issue s).tcb = s.tcb := rfl
@[simp] theorem issue_response : (issue s).response = none := rfl
@[simp] theorem issue_awaitingArp : (issue s).awaitingArp = s.awaitingArp := rfl
@[simp] theorem issue_program : (issue s).program = s.program.tail := rfl
@[simp] theorem issue_env : (issue s).env = s.env := rfl
end issueState

section placed
variable (request : Buffer) (s : State)

@[simp] theorem placeRequest_tcb : (placeRequest request s).tcb = s.tcb := rfl
@[simp] theorem placeRequest_response : (placeRequest request s).response = s.response := rfl
@[simp] theorem placeRequest_awaitingArp : (placeRequest request s).awaitingArp = false := rfl
@[simp] theorem placeRequest_program : (placeRequest request s).program = request :: s.program := rfl
@[simp] theorem placeRequest_env : (placeRequest request s).env = s.env := rfl
end placed

section results
variable (s : State) (v : Value) (e : OpError)

@[simp] theorem delivered_tcb : (delivered s v).tcb = s.tcb := rfl
@[simp] theorem delivered_response : (delivered s v).response = some (.ok v) := rfl
@[simp] theorem delivered_awaitingArp : (delivered s v).awaitingArp = s.awaitingArp := rfl
@[simp] theorem delivered_program : (delivered s v).program = s.program := rfl
@[simp] theorem delivered_env : (delivered s v).env = s.env := rfl

@[simp] theorem reported_tcb : (reported s e).tcb = s.tcb := rfl
@[simp] theorem reported_response : (reported s e).response = some (.error e) := rfl
@[simp] theorem reported_awaitingArp : (reported s e).awaitingArp = s.awaitingArp := rfl
@[simp] theorem reported_program : (reported s e).program = s.program := rfl
@[simp] theorem reported_env : (reported s e).env = s.env := rfl
end results

section inputs
variable (ev : RecvEvent) (s : State)

@[simp] theorem arpArrival_tcb : (arpArrival ev s).tcb = s.tcb := rfl
@[simp] theorem arpArrival_response : (arpArrival ev s).response = s.response := rfl
@[simp] theorem arpArrival_awaitingArp : (arpArrival ev s).awaitingArp = s.awaitingArp := rfl
@[simp] theorem arpArrival_program : (arpArrival ev s).program = s.program := rfl
@[simp] theorem arpArrival_rx : (arpArrival ev s).env.arp.rx = s.env.arp.rx ++ [ev] := rfl
@[simp] theorem arpArrival_sent : (arpArrival ev s).env.arp.sent = s.env.arp.sent := rfl
@[simp] theorem arpArrival_txAnswers : (arpArrival ev s).env.arp.txAnswers = s.env.arp.txAnswers := rfl
end inputs

end Sys2Proof.Machine
end

