-- ==== Sys2Proof/Laws/Ops.lean ====
section
/-! SUPPORT. For each shared operation, one lemma that says everything it can do. -/

namespace Sys2Proof.Machine

open Sys2Proof Sys2Proof.Safety

@[simp] theorem reply_eq (v : Value) (s : State) : reply v s = .next (delivered s v) := rfl

@[simp] theorem raise_eq (e : OpError) (s : State) : raise e s = .next (reported s e) := rfl

/-- Everything a `send` can do: fail and put nothing on the link, or be accepted and log the frame. -/
theorem transportSend_cases (t : Transport) (iface : Text) (dst : Bytes6) (payload : Buffer) :
    (∃ text answers, t.txAnswers = some text :: answers ∧
      transportSend t iface dst payload = (some text, { t with txAnswers := answers })) ∨
    (t.txAnswers.head?.join = none ∧
      transportSend t iface dst payload =
        (none, { t with txAnswers := t.txAnswers.tail, sent := t.sent ++ [⟨iface, dst, payload⟩] })) := by
  unfold transportSend
  cases h : t.txAnswers with
  | nil => right; simp
  | cons a rest => cases a <;> simp

/-- Everything a `recv` can do: wait, return at most `n` bytes of the first frame, or fail; it consumes what it returns. -/
theorem transportRecv_cases (t : Transport) (n : Nat) :
    (t.rx = [] ∧ transportRecv t n = (.waits, t)) ∨
    (∃ payload rx, t.rx = .frame payload :: rx ∧
      transportRecv t n = (.bytes (payload.take n), { t with rx := rx })) ∨
    (∃ text rx, t.rx = .failure text :: rx ∧ transportRecv t n = (.failed text, { t with rx := rx })) := by
  unfold transportRecv
  cases h : t.rx with
  | nil => simp
  | cons e rest => cases e <;> simp

/-- Everything the wait of `ARP.RESOLVE` can do in one step. -/
theorem arpAwaitReply_cases (s : State) :
    (s.env.arp.rx = [] ∧ arpAwaitReply s = .next { s with awaitingArp := true, response := none }) ∨
    (∃ text rx, s.env.arp.rx = .failure text :: rx ∧ arpAwaitReply s =
      .next (reported { setArpTransport { s.env.arp with rx := rx } s with awaitingArp := false } (.transport text))) ∨
    (∃ payload rx, s.env.arp.rx = .frame payload :: rx ∧ payload.length < 28 ∧
      arpAwaitReply s = .fault .arpShortInput) ∨
    (∃ payload rx, s.env.arp.rx = .frame payload :: rx ∧ 28 ≤ payload.length ∧ arpAwaitReply s =
      .next (delivered { setArpTransport { s.env.arp with rx := rx } s with awaitingArp := false }
        (.octets (.mac (arpFields (payload.take 28)).sha)))) := by
  have hlen : Config.arpLen = 28 := rfl
  rcases transportRecv_cases s.env.arp 28 with ⟨h, hr⟩ | ⟨payload, rx, h, hr⟩ | ⟨text, rx, h, hr⟩
  · left; simp [arpAwaitReply, hlen, hr, h]
  · right; right
    by_cases hp : payload.length < 28
    · left; exact ⟨payload, rx, h, hp, by simp [arpAwaitReply, hlen, hr, hp]⟩
    · right; exact ⟨payload, rx, h, by omega, by simp [arpAwaitReply, hlen, hr, hp]⟩
  · right; left; exact ⟨text, rx, h, by simp [arpAwaitReply, hlen, hr]⟩

/-- Everything a step can do: go on waiting, stay idle, execute the decoded request, or refuse it. -/
theorem step_cases (s : State) :
    (s.awaitingArp = true ∧ step s = arpAwaitReply s) ∨
    (s.awaitingArp = false ∧ s.program = [] ∧ step s = .next s) ∨
    (∃ request pending i rest, s.awaitingArp = false ∧ s.program = request :: pending ∧
      decode request = .ok (i, rest) ∧ step s = exec i (issue s)) ∨
    (∃ request pending r, s.awaitingArp = false ∧ s.program = request :: pending ∧ step s = .refused r) := by
  cases ha : s.awaitingArp with
  | true => left; simp [step, ha]
  | false =>
    cases hp : s.program with
    | nil => right; left; simp [step, ha, fetch, hp]
    | cons request pending =>
      right; right
      cases hd : decode request with
      | error e => right; exact ⟨request, pending, by cases e <;> simp [step, ha, fetch, hp, hd]⟩
      | ok ir =>
        obtain ⟨i, rest⟩ := ir
        left; exact ⟨request, pending, i, rest, rfl, rfl, hd, by simp [step, ha, fetch, hp, hd]⟩

@[simp] theorem ipTooLong_iff (body : Buffer) : ipTooLong body = true ↔ 65515 < body.length := decide_eq_true_iff

@[simp] theorem tcpTooLong_iff (options body : Buffer) :
    tcpTooLong options body = true ↔ 65515 < options.length + body.length := decide_eq_true_iff

/-- `WRAP` is its composition of operations: it is refused as `IP.BUILD` refuses the marshalled segment, and otherwise gives
what `IP.MARSHAL` gives of the packet that `IP.BUILD` builds (R96, R160). -/
theorem wrap_cases (g : TcpSeg) (src dst : Bytes4) (s : State) :
    (65515 < (tcpBytes g).length ∧ wrap Config.ipIdSentinel g src dst = .error .ipBodyTooLong ∧
      exec (.ipBuild 6 src dst (tcpBytes g)) s = .refused .ipBodyTooLong) ∨
    ((tcpBytes g).length ≤ 65515 ∧ ∃ p b, wrap Config.ipIdSentinel g src dst = .ok b ∧
      exec (.ipBuild 6 src dst (tcpBytes g)) s = .next (delivered s (.ip p)) ∧
      exec (.ipMarshal p) s = .next (delivered s (.buffer b))) := by
  by_cases h : 65515 < (tcpBytes g).length
  · have ht := (ipTooLong_iff (tcpBytes g)).2 h
    exact .inl ⟨h, by rw [wrap, if_pos ht], by rw [exec, execIpBuild, if_pos ht]⟩
  · have ht := mt (ipTooLong_iff (tcpBytes g)).1 h
    exact .inr ⟨Nat.le_of_not_lt h, _, _, by rw [wrap, if_neg ht], by rw [exec, execIpBuild, if_neg ht]; rfl, rfl⟩

/-- A run of one step more, on any machine. -/
theorem run_succ_next (M : Host.Core) {s t : M.State} (k : Nat) (h : M.step s = .next t) :
    M.run (k + 1) s = M.run k t := by rw [Host.Core.run, h]

/-- A run whose first step stops, on any machine. -/
theorem run_succ_fault (M : Host.Core) {s : M.State} {f : M.Fault} (k : Nat) (h : M.step s = .fault f) :
    M.run (k + 1) s = .fault f := by rw [Host.Core.run, h]

/-- A run whose first step is refused, on any machine. -/
theorem run_succ_refused (M : Host.Core) {s : M.State} {r : M.Refusal} (k : Nat) (h : M.step s = .refused r) :
    M.run (k + 1) s = .refused r := by rw [Host.Core.run, h]

/-- Issuing the first of the pending requests. -/
theorem issue_of_program {s : State} {request : Buffer} {pending : List Buffer} (h : s.program = request :: pending) :
    issue s = { s with program := pending, response := none } := by simp [issue, h]

end Sys2Proof.Machine
end

