-- ==== Sys2Proof/Laws/PerInstr.lean ====
section
/-! SUPPORT. The law `LeadByte`, one lemma for each constructor of `Instr`: a request starts with the command code that the
code table of 30_encoding.md R91 gives the operation, the decoder's table knows that code, and a layout row has neither. -/

namespace Sys2Proof.Laws.LeadByte

open Sys2Proof

/-- The command code of R91, written from the code table; none for a layout row. -/
def commandCode : Instr → Option Byte
  | .addrFromHost .. => some 0x01
  | .addrFromNet .. => some 0x02
  | .addrHost .. => some 0x03
  | .addrNet .. => some 0x04
  | .addrFromStr .. => some 0x05
  | .addrToStr .. => some 0x06
  | .arpNew .. => some 0x10
  | .arpParse .. => some 0x11
  | .arpSerialize .. => some 0x12
  | .arpGet .. => some 0x13
  | .arpMkreq .. => some 0x14
  | .arpResolve .. => some 0x15
  | .cksum16 .. => some 0x20
  | .ipBuild .. => some 0x21
  | .ipParse .. => some 0x22
  | .ipMarshal .. => some 0x23
  | .ipGet .. => some 0x24
  | .tcpNewRaw .. => some 0x30
  | .tcpNewAuto .. => some 0x31
  | .tcpParse .. => some 0x32
  | .tcpMarshal .. => some 0x33
  | .tcpGet .. => some 0x34
  | .tcbInit .. => some 0x40
  | .tcbSend .. => some 0x41
  | .tcbRecv .. => some 0x42
  | .tcbGet .. => some 0x43
  | .wireArp .. => none
  | .wireIpv4Hdr .. => none
  | .wireTcpHdr .. => none
  | .wireTcpCtrl .. => none
  | .wireTcpPseudo .. => none

/-- The instruction's code is the first byte of its request and has a row in the decoder's table; only an operation has
one. -/
def Statement (i : Instr) : Prop :=
  (encode i).head? = commandCode i ∧ (commandCode i).isSome = i.isOperation ∧
    ∀ c ∈ commandCode i, (commandTable.lookup c).isSome

/-- The law for an instruction with the code `c`. -/
theorem of_code {i : Instr} (c : Byte) (h : commandCode i = some c) (he : (encode i).head? = some c)
    (ho : i.isOperation = true) (hl : (commandTable.lookup c).isSome = true) : Statement i := by
  refine ⟨he.trans h.symm, by rw [h, ho]; rfl, fun d hd => ?_⟩
  rw [h, Option.mem_some_iff] at hd
  rw [← hd]; exact hl

/-- The law for an instruction without a code. -/
theorem of_none {i : Instr} (h : commandCode i = none) (he : encode i = []) (ho : i.isOperation = false) :
    Statement i := ⟨by rw [he, h]; rfl, by rw [h, ho]; rfl, by simp [h]⟩

theorem addrFromHost (b : Octets) : Statement (.addrFromHost b) := of_code 0x01 rfl rfl rfl rfl
theorem addrFromNet (b : Octets) : Statement (.addrFromNet b) := of_code 0x02 rfl rfl rfl rfl
theorem addrHost (a : Addr) : Statement (.addrHost a) := of_code 0x03 rfl rfl rfl rfl
theorem addrNet (a : Addr) : Statement (.addrNet a) := of_code 0x04 rfl rfl rfl rfl
theorem addrFromStr (kind : AddrKind) (t : Text) : Statement (.addrFromStr kind t) := of_code 0x05 rfl rfl rfl rfl
theorem addrToStr (a : Addr) : Statement (.addrToStr a) := of_code 0x06 rfl rfl rfl rfl
theorem arpNew (htype ptype : U16) (hlen plen : Byte) (oper : U16) (sha : Bytes6) (spa : Bytes4) (tha : Bytes6) (tpa
    : Bytes4) : Statement (.arpNew htype ptype hlen plen oper sha spa tha tpa) :=
  of_code 0x10 rfl rfl rfl rfl
theorem arpParse (bytes : Buffer) : Statement (.arpParse bytes) := of_code 0x11 rfl rfl rfl rfl
theorem arpSerialize (m : ArpMsg) : Statement (.arpSerialize m) := of_code 0x12 rfl rfl rfl rfl
theorem arpGet (m : ArpMsg) (field : ArpField) : Statement (.arpGet m field) := of_code 0x13 rfl rfl rfl rfl
theorem arpMkreq (localMac : Bytes6) (localIp remoteIp : Bytes4) : Statement (.arpMkreq localMac localIp remoteIp)
    :=
  of_code 0x14 rfl rfl rfl rfl
theorem arpResolve (remoteIp : Bytes4) (localMac : Bytes6) (localIp : Bytes4) (iface : Text) : Statement
    (.arpResolve remoteIp localMac localIp iface) :=
  of_code 0x15 rfl rfl rfl rfl
theorem cksum16 (buf : Buffer) : Statement (.cksum16 buf) := of_code 0x20 rfl rfl rfl rfl
theorem ipBuild (protocol : Byte) (srcIp dstIp : Bytes4) (body : Buffer) : Statement (.ipBuild protocol srcIp dstIp
    body) :=
  of_code 0x21 rfl rfl rfl rfl
theorem ipParse (bytes : Buffer) : Statement (.ipParse bytes) := of_code 0x22 rfl rfl rfl rfl
theorem ipMarshal (p : IpPkt) : Statement (.ipMarshal p) := of_code 0x23 rfl rfl rfl rfl
theorem ipGet (p : IpPkt) (field : IpField) : Statement (.ipGet p field) := of_code 0x24 rfl rfl rfl rfl
theorem tcpNewRaw (sport dport : U16) (seq ackSeq : U32) (doff : BitVec 4) (rsv : BitVec 3) (flags : Flags) (window
    check urgPtr : U16) (options body : Buffer) : Statement (.tcpNewRaw sport dport seq ackSeq doff rsv flags window
    check urgPtr options body) :=
  of_code 0x30 rfl rfl rfl rfl
theorem tcpNewAuto (srcIp dstIp : Bytes4) (sport dport : U16) (seq ackSeq : U32) (flags : Flags) (window urgPtr :
    U16) (options body : Buffer) : Statement (.tcpNewAuto srcIp dstIp sport dport seq ackSeq flags window urgPtr
    options body) :=
  of_code 0x31 rfl rfl rfl rfl
theorem tcpParse (bytes : Buffer) : Statement (.tcpParse bytes) := of_code 0x32 rfl rfl rfl rfl
theorem tcpMarshal (seg : TcpSeg) : Statement (.tcpMarshal seg) := of_code 0x33 rfl rfl rfl rfl
theorem tcpGet (seg : TcpSeg) (field : TcpField) : Statement (.tcpGet seg field) := of_code 0x34 rfl rfl rfl rfl
theorem tcbInit (tUs : Nat) : Statement (.tcbInit tUs) := of_code 0x40 rfl rfl rfl rfl
theorem tcbSend (srcIp : Bytes4) (srcPort : U16) (dstIp : Bytes4) (dstPort : U16) (flags : Flags) (window
    urgentPointer : U16) (options body : Buffer) : Statement (.tcbSend srcIp srcPort dstIp dstPort flags window
    urgentPointer options body) :=
  of_code 0x41 rfl rfl rfl rfl
theorem tcbRecv (segment : TcpSeg) : Statement (.tcbRecv segment) := of_code 0x42 rfl rfl rfl rfl
theorem tcbGet (counter : Counter) : Statement (.tcbGet counter) := of_code 0x43 rfl rfl rfl rfl
theorem wireArp (m : ArpMsg) : Statement (.wireArp m) := of_none rfl rfl rfl
theorem wireIpv4Hdr (h : IpHdr) : Statement (.wireIpv4Hdr h) := of_none rfl rfl rfl
theorem wireTcpHdr (h : TcpHdr) : Statement (.wireTcpHdr h) := of_none rfl rfl rfl
theorem wireTcpCtrl (doff : BitVec 4) (rsv : BitVec 3) (flags : Flags) : Statement (.wireTcpCtrl doff rsv flags) :=
  of_none rfl rfl rfl
theorem wireTcpPseudo (srcIp dstIp : Bytes4) (tcpLength : U16) : Statement (.wireTcpPseudo srcIp dstIp tcpLength) :=
  of_none rfl rfl rfl

end Sys2Proof.Laws.LeadByte
end

