-- ==== Sys2Proof/Laws/Request.lean ====
section
/-! SUPPORT. Each reader of `Decode.lean` takes back exactly what its writer wrote, whatever follows. -/

namespace Sys2Proof

open Sys2Proof.Machine

@[simp] theorem read16_put16 (v : U16) (r : Buffer) : read16 (put16 v ++ r) = some (v, r) := by
  show some (_, r) = _
  rw [join16]

@[simp] theorem read32_put32 (v : U32) (r : Buffer) : read32 (put32 v ++ r) = some (v, r) := by
  show some (_, r) = _
  rw [join32]

theorem readBytes_append (n : Nat) (b r : Buffer) (h : b.length = n) : readBytes n (b ++ r) = some (b, r) := by
  subst h; simp [readBytes]

/-- The digits of a number are read back for any fuel that reaches the number. -/
theorem readNat_putDigits (fuel n : Nat) (r : Buffer) (h : n ≤ fuel) : readNat (putDigits fuel n ++ r) = some (n, r) := by
  induction fuel generalizing n with
  | zero => obtain rfl : n = 0 := by omega
            rfl
  | succ fuel ih =>
    rw [putDigits]
    split
    · next hn => simp [readNat, Nat.mod_eq_of_lt (show n < 256 by omega), hn]
    · next hn =>
      have hd : (128 + n % 128) % 256 = 128 + n % 128 := by omega
      simp [readNat, hd, ih (n / 128) (by omega), Nat.mod_add_div]

@[simp] theorem readNat_putNat (n : Nat) (r : Buffer) : readNat (putNat n ++ r) = some (n, r) :=
  readNat_putDigits n n r le_rfl

@[simp] theorem readBuffer_putBuffer (b r : Buffer) : readBuffer (putBuffer b ++ r) = some (b, r) := by
  simp only [readBuffer, putBuffer, List.append_assoc, readNat_putNat, Option.bind_eq_bind, Option.bind_some]
  exact readBytes_append _ _ _ rfl

@[simp] theorem read4_bytes4List (b : Bytes4) (r : Buffer) : read4 (bytes4List b ++ r) = some (b, r) := rfl

@[simp] theorem read6_bytes6List (b : Bytes6) (r : Buffer) : read6 (bytes6List b ++ r) = some (b, r) := rfl

@[simp] theorem readKind_putKind (k : AddrKind) (r : Buffer) : readKind (putKind k ++ r) = some (k, r) := by
  cases k <;> rfl

@[simp] theorem readOctets_putOctets (o : Octets) (r : Buffer) : readOctets (putOctets o ++ r) = some (o, r) := by
  cases o <;> rfl

@[simp] theorem readAddr_putOctets (a : Addr) (r : Buffer) : readAddr (putOctets a.oct ++ r) = some (a, r) := by
  simp [readAddr]

@[simp] theorem readArp_arpLayout (m : ArpMsg) (r : Buffer) : readArp (arpLayout m ++ r) = some (m, r) := by
  have h := arpFields_layout m []
  rw [List.append_nil] at h
  rw [readArp, readBytes_append 28 (arpLayout m) r rfl]
  simp [h]

@[simp] theorem readIpHdr_ipHdrLayout (p : IpHdr) (r : Buffer) : readIpHdr (ipHdrLayout p ++ r) = some (p, r) := by
  have h := ipHdrFields_layout p []
  rw [List.append_nil] at h
  rw [readIpHdr, readBytes_append 20 (ipHdrLayout p) r rfl]
  simp [h]

@[simp] theorem readTcpHdr_tcpHdrLayout (g : TcpHdr) (r : Buffer) : readTcpHdr (tcpHdrLayout g ++ r) = some (g, r) := by
  have h := tcpHdrFields_layout g []
  rw [List.append_nil] at h
  rw [readTcpHdr, readBytes_append 20 (tcpHdrLayout g) r rfl]
  simp [h]

@[simp] theorem readIpPkt_putIpPkt (p : IpPkt) (r : Buffer) : readIpPkt (putIpPkt p ++ r) = some (p, r) := by
  simp [readIpPkt, putIpPkt]

@[simp] theorem readTcpSeg_putTcpSeg (g : TcpSeg) (r : Buffer) : readTcpSeg (putTcpSeg g ++ r) = some (g, r) := by
  simp [readTcpSeg, putTcpSeg]

@[simp] theorem readFlags_putFlags (f : Flags) (r : Buffer) : readFlags (putFlags f ++ r) = some (f, r) := by
  simp [readFlags, putFlags, tcpCtrlLayout]

@[simp] theorem readName_arpField (f : ArpField) (r : Buffer) :
    readName arpFieldNames (putName arpFieldNames f ++ r) = some (f, r) := by cases f <;> rfl

@[simp] theorem readName_ipField (f : IpField) (r : Buffer) :
    readName ipFieldNames (putName ipFieldNames f ++ r) = some (f, r) := by cases f <;> rfl

@[simp] theorem readName_tcpField (f : TcpField) (r : Buffer) :
    readName tcpFieldNames (putName tcpFieldNames f ++ r) = some (f, r) := by cases f <;> rfl

@[simp] theorem readName_counter (c : Counter) (r : Buffer) :
    readName counterNames (putName counterNames c ++ r) = some (c, r) := by cases c <;> rfl

end Sys2Proof
end

