-- ==== Sys2Proof/Tests/Slice0.lean ====
section
/-! SUPPORT. The model's own tests. The expected result of each comes from the spec: a vector of 95_test_vectors.md, named
in the test's comment, or the encoding the comment cites. The last part has, for each obligation with hypotheses, a concrete
state and operands that meet all of them. -/

namespace Sys2Proof.Tests

open Sys2Proof Sys2Proof.Machine Sys2Proof.Safety

/-! ### Helpers -/

/-- What an outcome that goes on has delivered. -/
def responseOf : Result → Option Response
  | .next t => t.response
  | .fault _ => none
  | .refused _ => none

/-- The counters after an outcome that goes on. -/
def tcbOf : Result → Option Tcb
  | .next t => some t.tcb
  | .fault _ => none
  | .refused _ => none

/-- The fault of an outcome that stops with one. -/
def faultOf : Result → Option Fault
  | .next _ => none
  | .fault f => some f
  | .refused _ => none

/-- The refusal of an outcome that is one. -/
def refusalOf : Result → Option Refusal
  | .next _ => none
  | .fault _ => none
  | .refused r => some r

/-- The ARP transport after an outcome that goes on. -/
def arpOf : Result → Option Transport
  | .next t => some t.env.arp
  | .fault _ => none
  | .refused _ => none

/-- A string's characters as a `Text`. -/
def txt (cs : List Char) : Text := cs.map fun c => BitVec.ofNat 8 c.toNat

/-- The vectors' start: power-on with the clock at 4000 (95 P1). -/
def s0 : State := State.resetAt 4000

/-- The vectors' local and peer address, 172.17.0.2 and 172.17.0.3 (95, head). -/
def ipA : Bytes4 := ⟨0xac, 0x11, 0x00, 0x02⟩
def ipB : Bytes4 := ⟨0xac, 0x11, 0x00, 0x03⟩

/-- aa:bb:cc:dd:ee:01 and aa:bb:cc:dd:ee:02 (95 S8). -/
def macA : Bytes6 := ⟨0xaa, 0xbb, 0xcc, 0xdd, 0xee, 0x01⟩
def macB : Bytes6 := ⟨0xaa, 0xbb, 0xcc, 0xdd, 0xee, 0x02⟩

/-- The 28 bytes of V-ARP-1. -/
def arpRequestBytes : Buffer :=
  [0x00, 0x01, 0x08, 0x00, 0x06, 0x04, 0x00, 0x01, 0xaa, 0xbb, 0xcc, 0xdd, 0xee, 0x01, 0xac, 0x11, 0x00, 0x02] ++
  [0x00, 0x00, 0x00, 0x00, 0x00, 0x00, 0xac, 0x11, 0x00, 0x03]

/-- The 28 bytes of V-ARP-2. -/
def arpReplyBytes : Buffer :=
  [0x00, 0x01, 0x08, 0x00, 0x06, 0x04, 0x00, 0x02, 0xaa, 0xbb, 0xcc, 0xdd, 0xee, 0x02, 0xac, 0x11, 0x00, 0x03] ++
  [0xaa, 0xbb, 0xcc, 0xdd, 0xee, 0x01, 0xac, 0x11, 0x00, 0x02]

/-- The record of V-ARP-2. -/
def arpReply : ArpMsg := ⟨1, 0x0800, 6, 4, 2, macB, ipB, macA, ipA⟩

/-- The 20 bytes of V-TCP-1. -/
def synBytes : Buffer :=
  [0x9c, 0x40, 0x00, 0x50, 0x00, 0x00, 0x03, 0xe8, 0x00, 0x00, 0x00, 0x00, 0x50, 0x02, 0x10, 0x00, 0xa7, 0x42, 0x00, 0x00]

/-- The record of V-TCP-1 (R181's example). -/
def synSeg : TcpSeg :=
  ⟨⟨40000, 80, 1000, 0, 5, 0, { syn := true }, 4096, 0xA742, 0⟩, [], []⟩

/-- The packet `P` of V-IP-4. -/
def packetP : Buffer :=
  [0x45, 0x00, 0x00, 0x2d, 0x00, 0x02, 0x40, 0x00, 0x40, 0x06, 0xe2, 0xa1, 0xac, 0x11, 0x00, 0x03, 0xac, 0x11, 0x00, 0x02] ++
  [0x00, 0x50, 0x9c, 0x40, 0x00, 0x00, 0x13, 0x89, 0x00, 0x00, 0x03, 0xe9, 0x50, 0x18, 0x20, 0x00, 0x35, 0xc1, 0x00, 0x00] ++
  [0x77, 0x6f, 0x72, 0x6c, 0x64]

/-- The body of a parsed packet. -/
def bodyOf (r : Option Response) : Option Buffer :=
  match r with
  | some (.ok (.ip p)) => some p.body
  | _ => none

/-- The bytes of a delivered segment. -/
def segBytes (r : Option Response) : Option Buffer :=
  match r with
  | some (.ok (.tcp g)) => some (tcpBytes g)
  | _ => none

/-- A state whose ARP transport has the frame waiting. -/
def withFrame (b : Buffer) : State := arpArrival (.frame b) s0

/-! ### WellFormed refuses an ill-formed term; its one check is that the row has a command code -/

theorem test_wf_refuses_layout_row : (Instr.wireTcpCtrl 5 0 {}).wellFormed = false := by decide
theorem test_wf_accepts_any_time : (Instr.tcbInit (2 ^ 64)).wellFormed = true := by decide

/-! ### Decoding: each operation's code (R91) and its operands, written out byte by byte -/

theorem test_codes_are_distinct : (commandTable.map Prod.fst).Nodup := by decide
theorem test_codes_are_26 : commandTable.length = 26 := by decide

theorem test_decode_addrFromHost : decode [0x01, 0x00, 0xac, 0x11, 0x00, 0x02] = .ok (.addrFromHost (.ip ipA), []) := by
  rfl
theorem test_decode_addrFromNet : decode [0x02, 0x01, 0xaa, 0xbb, 0xcc, 0xdd, 0xee, 0x01] =
    .ok (.addrFromNet (.mac macA), []) := by rfl
theorem test_decode_addrHost : decode [0x03, 0x00, 0xac, 0x11, 0x00, 0x03] = .ok (.addrHost ⟨.ip ipB⟩, []) := by rfl
theorem test_decode_addrNet : decode [0x04, 0x00, 0xac, 0x11, 0x00, 0x03] = .ok (.addrNet ⟨.ip ipB⟩, []) := by rfl
theorem test_decode_addrFromStr : decode [0x05, 0x00, 3, 0x31, 0x2e, 0x32] =
    .ok (.addrFromStr .ip [0x31, 0x2e, 0x32], []) := by rfl
theorem test_decode_addrToStr : decode [0x06, 0x01, 0xaa, 0xbb, 0xcc, 0xdd, 0xee, 0x02] =
    .ok (.addrToStr ⟨.mac macB⟩, []) := by rfl
theorem test_decode_arpNew : decode (0x10 :: arpReplyBytes) =
    .ok (.arpNew 1 0x0800 6 4 2 macB ipB macA ipA, []) := by rfl
theorem test_decode_arpParse : decode [0x11, 2, 0xde, 0xad, 0x99] = .ok (.arpParse [0xde, 0xad], [0x99]) := by
  rfl
theorem test_decode_arpSerialize : decode (0x12 :: arpReplyBytes) = .ok (.arpSerialize arpReply, []) := by rfl
theorem test_decode_arpGet : decode (0x13 :: 0x05 :: arpReplyBytes) = .ok (.arpGet arpReply .sha, []) := by rfl
theorem test_decode_arpMkreq : decode ([0x14, 0xaa, 0xbb, 0xcc, 0xdd, 0xee, 0x01] ++
    [0xac, 0x11, 0x00, 0x02, 0xac, 0x11, 0x00, 0x03]) = .ok (.arpMkreq macA ipA ipB, []) := by rfl
theorem test_decode_arpResolve : decode ([0x15, 0xac, 0x11, 0x00, 0x03, 0xaa, 0xbb, 0xcc, 0xdd, 0xee, 0x01] ++
    [0xac, 0x11, 0x00, 0x02, 4, 0x65, 0x74, 0x68, 0x30]) =
    .ok (.arpResolve ipB macA ipA (txt ['e', 't', 'h', '0']), []) := by rfl
theorem test_decode_cksum16 : decode [0x20, 3, 0xab, 0xcd, 0xef] = .ok (.cksum16 [0xab, 0xcd, 0xef], []) := by
  rfl
theorem test_decode_ipBuild : decode [0x21, 0x06, 0xac, 0x11, 0x00, 0x02, 0xac, 0x11, 0x00, 0x03, 1, 0x7f] =
    .ok (.ipBuild 6 ipA ipB [0x7f], []) := by rfl
theorem test_decode_ipParse : decode [0x22, 4, 0x45, 0x00, 0x00, 0x28] =
    .ok (.ipParse [0x45, 0x00, 0x00, 0x28], []) := by rfl
/-- The header of V-IP-1's second row. -/
theorem test_decode_ipMarshal : decode ([0x23, 0x45, 0x00, 0x00, 0x28, 0x12, 0x34, 0x00, 0x00, 0x20, 0x06, 0x30, 0x75] ++
    [0xac, 0x11, 0x00, 0x02, 0xac, 0x11, 0x00, 0x03, 1, 0x9c]) =
    .ok (.ipMarshal ⟨⟨4, 5, 0, 40, 0x1234, 0, 32, 6, 0x3075, ipA, ipB⟩, [0x9c]⟩, []) := by rfl
theorem test_decode_ipGet : decode ([0x24, 0x0b, 0x45, 0x00, 0x00, 0x28, 0x12, 0x34, 0x00, 0x00, 0x20, 0x06, 0x30, 0x75] ++
    [0xac, 0x11, 0x00, 0x02, 0xac, 0x11, 0x00, 0x03, 0]) =
    .ok (.ipGet ⟨⟨4, 5, 0, 40, 0x1234, 0, 32, 6, 0x3075, ipA, ipB⟩, []⟩ .body, []) := by rfl
theorem test_decode_tcpNewRaw : decode (0x30 :: (synBytes ++ [0, 0])) =
    .ok (.tcpNewRaw 40000 80 1000 0 5 0 { syn := true } 4096 0xA742 0 [] [], []) := by rfl
theorem test_decode_tcpNewAuto : decode ([0x31, 0xac, 0x11, 0x00, 0x02, 0xac, 0x11, 0x00, 0x03, 0x9c, 0x40, 0x00, 0x50] ++
    [0x00, 0x00, 0x03, 0xe8, 0x00, 0x00, 0x00, 0x00, 0x01, 0x02, 0x10, 0x00, 0x00, 0x00, 0, 0]) =
    .ok (.tcpNewAuto ipA ipB 40000 80 1000 0 { ns := true, syn := true } 4096 0 [] [], []) := by rfl
theorem test_decode_tcpParse : decode [0x32, 1, 0x50] = .ok (.tcpParse [0x50], []) := by rfl
theorem test_decode_tcpMarshal : decode (0x33 :: (synBytes ++ [0, 0])) =
    .ok (.tcpMarshal synSeg, []) := by rfl
theorem test_decode_tcpGet : decode (0x34 :: 0x04 :: (synBytes ++ [0, 0])) =
    .ok (.tcpGet synSeg .doff, []) := by rfl
theorem test_decode_tcbInit : decode [0x40, 0x81, 0x80, 0x80, 0x80, 0x40] = .ok (.tcbInit 17179869185, []) := by rfl
theorem test_decode_tcbSend : decode ([0x41, 0xac, 0x11, 0x00, 0x02, 0x9c, 0x40, 0xac, 0x11, 0x00, 0x03, 0x00, 0x50] ++
    [0x00, 0x18, 0x10, 0x00, 0x00, 0x55, 0, 1, 0x68]) =
    .ok (.tcbSend ipA 40000 ipB 80 { psh := true, ack := true } 4096 0x55 [] [0x68], []) := by rfl
theorem test_decode_tcbRecv : decode (0x42 :: (synBytes ++ [0, 0])) = .ok (.tcbRecv synSeg, []) := by
  rfl
theorem test_decode_tcbGet : decode [0x43, 0x06] = .ok (.tcbGet .rcvNxt, []) := by rfl

/-- R92: codes in no row of the table; and operands that are not the operation's. -/
theorem test_decode_rejects : decode [] = .error .noCode ∧ decode [0x07] = .error (.unassignedCode 0x07) ∧
    decode [0x25, 0] = .error (.unassignedCode 0x25) ∧ decode [0x43, 0x0a] = .error (.badOperands 0x43) ∧
    decode [0x11, 2, 0xde] = .error (.badOperands 0x11) := by
  refine ⟨rfl, rfl, rfl, rfl, rfl⟩

/-- R71, R72, R74, R75: the byte of each layout that two fields share, and a field at the end of each. -/
theorem test_layout_fields : (arpFields arpReplyBytes) = arpReply ∧ (ipHdrFields packetP).version = 4 ∧
    (ipHdrFields packetP).ihl = 5 ∧ (ipHdrFields packetP).daddr = ipA ∧ tcpHdrFields synBytes = synSeg.toTcpHdr := by
  decide

/-! ### The address value -/

/-- V-AD-1. -/
theorem test_addrFromHost : responseOf (exec (.addrFromHost (.mac macA)) s0) = some (.ok (.addr ⟨.mac macA⟩)) := by decide
/-- V-AD-2. -/
theorem test_addrFromNet : responseOf (exec (.addrFromNet (.mac macA)) s0) =
    some (.ok (.addr ⟨.mac ⟨0x01, 0xee, 0xdd, 0xcc, 0xbb, 0xaa⟩⟩)) := by decide
/-- P3 #2. -/
theorem test_addrHost : responseOf (exec (.addrHost ⟨.ip ipB⟩) s0) = some (.ok (.octets (.ip ipB))) := by decide
/-- P3 #2. -/
theorem test_addrNet : responseOf (exec (.addrNet ⟨.ip ipB⟩) s0) =
    some (.ok (.octets (.ip ⟨0x03, 0x00, 0x11, 0xac⟩))) := by decide

/-- S1, V-AD-3, V-AD-4, V-AD-12, V-AD-13. -/
theorem test_addrFromStr_values :
    responseOf (exec (.addrFromStr .ip (txt ['1', '7', '2', '.', '1', '7', '.', '0', '.', '2'])) s0) =
      some (.ok (.addr ⟨.ip ipA⟩)) ∧
    responseOf (exec (.addrFromStr .ip (txt ['2', '5', '5', '.', '0', '1', '0', '.', '0', '.', '1'])) s0) =
      some (.ok (.addr ⟨.ip ⟨255, 10, 0, 1⟩⟩)) ∧
    responseOf (exec (.addrFromStr .mac (txt ['A', 'A', ':', 'b', ':', 'C', 'c', ':', 'd', ':', 'E', ':', 'f', 'F'])) s0) =
      some (.ok (.addr ⟨.mac ⟨0xaa, 0x0b, 0xcc, 0x0d, 0x0e, 0xff⟩⟩)) := by decide

/-- V-AD-5, V-AD-7, V-AD-8, V-AD-9, V-AD-10, V-AD-11, V-AD-15, V-AD-16. -/
theorem test_addrFromStr_errors :
    responseOf (exec (.addrFromStr .ip []) s0) = some (.error (.delimiterCount 0)) ∧
    responseOf (exec (.addrFromStr .ip (txt ['1', '.', '.', '2', '.', '3'])) s0) = some (.error (.octet 1)) ∧
    responseOf (exec (.addrFromStr .ip (txt ['2', '5', '6', '.', '1', '.', '1', '.', '1'])) s0) = some (.error (.octet 0)) ∧
    responseOf (exec (.addrFromStr .ip (txt ['1', '.', '2', '.', 'x', '.', '9', '9', '9'])) s0) =
      some (.error (.octet 2)) ∧
    responseOf (exec (.addrFromStr .ip (txt ['1', '.', '2', '.', 'x'])) s0) = some (.error (.delimiterCount 2)) ∧
    responseOf (exec (.addrFromStr .ip (txt ['1', '.', '2', '.', '3', '.', '-', '4'])) s0) = some (.error (.octet 3)) ∧
    responseOf (exec (.addrFromStr .mac (txt ['a', ':', 'b', ':', 'c', ':', 'd', ':', 'e', ':', '1', '0', '0'])) s0) =
      some (.error (.octet 5)) ∧
    responseOf (exec (.addrFromStr .mac (txt ['1', '.', '2', '.', '3', '.', '4'])) s0) =
      some (.error (.delimiterCount 0)) := by decide

/-- S3, V-AD-17. -/
theorem test_addrToStr :
    responseOf (exec (.addrToStr ⟨.ip ipA⟩) s0) =
      some (.ok (.text (txt ['1', '7', '2', '.', '1', '7', '.', '0', '.', '2']))) ∧
    responseOf (exec (.addrToStr ⟨.mac ⟨0x00, 0x0a, 0x00, 0xff, 0x01, 0x02⟩⟩) s0) =
      some (.ok (.text (txt ['0', '0', ':', '0', 'a', ':', '0', '0', ':', 'f', 'f', ':', '0', '1', ':', '0', '2']))) := by
  decide

/-! ### ARP -/

/-- R131's example: the reply of V-ARP-2. -/
theorem test_arpNew : responseOf (exec (.arpNew 1 0x0800 6 4 2 macB ipB macA ipA) s0) = some (.ok (.arp arpReply)) := by
  decide
/-- V-ARP-2, V-ARP-4. -/
theorem test_arpParse : responseOf (exec (.arpParse (arpReplyBytes ++ List.replicate 18 0)) s0) =
    some (.ok (.arp arpReply)) := by decide
/-- V-ARP-4: 27 bytes. -/
theorem test_arpParse_short : faultOf (exec (.arpParse (arpReplyBytes.take 27)) s0) = some .arpShortInput := by decide
/-- V-ARP-2. -/
theorem test_arpSerialize : responseOf (exec (.arpSerialize arpReply) s0) = some (.ok (.buffer arpReplyBytes)) := by decide
/-- V-ARP-2. -/
theorem test_arpGet : responseOf (exec (.arpGet arpReply .sha) s0) = some (.ok (.octets (.mac macB))) ∧
    responseOf (exec (.arpGet arpReply .tpa) s0) = some (.ok (.octets (.ip ipA))) ∧
    responseOf (exec (.arpGet arpReply .oper) s0) = some (.ok (.u16 2)) := by decide
/-- V-ARP-1. -/
theorem test_arpMkreq : arpLayout (arpRequest macA ipA ipB) = arpRequestBytes ∧
    responseOf (exec (.arpMkreq macA ipA ipB) s0) = some (.ok (.arp (arpRequest macA ipA ipB))) := by decide
/-- P3 #3. -/
theorem test_arpResolve :
    responseOf (exec (.arpResolve ipB macA ipA (txt ['e', 't', 'h', '0'])) (withFrame arpReplyBytes)) =
      some (.ok (.octets (.mac macB))) ∧
    arpOf (exec (.arpResolve ipB macA ipA (txt ['e', 't', 'h', '0'])) (withFrame arpReplyBytes)) =
      some ⟨[], [], [⟨txt ['e', 't', 'h', '0'], ⟨255, 255, 255, 255, 255, 255⟩, arpRequestBytes⟩]⟩ := by decide
/-- P3, the variant: another station's request is accepted (R137). -/
theorem test_arpResolve_unmatched :
    responseOf (exec (.arpResolve ipB macA ipA []) (withFrame
      ([0x00, 0x01, 0x08, 0x00, 0x06, 0x04, 0x00, 0x01, 0xaa, 0xbb, 0xcc, 0xdd, 0xee, 0x09, 0xac, 0x11, 0x00, 0x09] ++
       [0x00, 0x00, 0x00, 0x00, 0x00, 0x00, 0xac, 0x11, 0x00, 0x01]))) =
      some (.ok (.octets (.mac ⟨0xaa, 0xbb, 0xcc, 0xdd, 0xee, 0x09⟩))) := by decide

/-! ### The checksum and IPv4 -/

/-- V-CK-1, V-CK-5, V-CK-8, V-CK-9, V-CK-12, V-CK-13. -/
theorem test_cksum16 :
    responseOf (exec (.cksum16 []) s0) = some (.ok (.u16 0xFFFF)) ∧
    responseOf (exec (.cksum16 [0x01]) s0) = some (.ok (.u16 0xFEFF)) ∧
    responseOf (exec (.cksum16 [0x00, 0x01, 0xf2, 0x03, 0xf4, 0xf5, 0xf6, 0xf7]) s0) = some (.ok (.u16 0x220D)) ∧
    responseOf (exec (.cksum16 [0xab, 0xcd, 0xef]) s0) = some (.ok (.u16 0x6531)) ∧
    responseOf (exec (.cksum16 [0xff, 0xff, 0xff, 0xff, 0x00, 0x01]) s0) = some (.ok (.u16 0xFFFE)) ∧
    responseOf (exec (.cksum16 [0xff, 0xff, 0xff, 0xff, 0x00, 0x02]) s0) = some (.ok (.u16 0xFFFD)) := by decide
/-- V-CK-11: a header that verifies. -/
theorem test_cksum16_verifies : responseOf (exec (.cksum16 [0x45, 0x00, 0x00, 0x3c, 0x1c, 0x46, 0x40, 0x00, 0x40, 0x06, 0xb1,
    0xe6, 0xac, 0x10, 0x0a, 0x63, 0xac, 0x10, 0x0a, 0x0c]) s0) = some (.ok (.u16 0)) := by decide

/-- V-IP-1: the three identifications of the vectors; the open one is a parameter. -/
theorem test_ipBuild_checks : (ipPacketOf 0x0000 6 ipA ipB synBytes).check = 0x42A9 ∧
    (ipPacketOf 0x1234 6 ipA ipB synBytes).check = 0x3075 ∧ (ipPacketOf 0xABCD 6 ipA ipB synBytes).check = 0x96DB ∧
    (ipPacketOf 0x0000 6 ipA ipB synBytes).totLen = 40 := by decide
/-- V-IP-1, first row: the bytes. -/
theorem test_ipBuild_bytes : ipBytes (ipPacketOf 0 6 ipA ipB synBytes) =
    [0x45, 0x00, 0x00, 0x28, 0x00, 0x00, 0x00, 0x00, 0x20, 0x06, 0x42, 0xa9, 0xac, 0x11, 0x00, 0x02, 0xac, 0x11, 0x00, 0x03] ++
    synBytes := by decide
/-- V-IP-3: a packet with fields the block never writes. -/
theorem test_ipParse : responseOf (exec (.ipParse ([0x45, 0x00, 0x00, 0x28, 0x00, 0x01, 0x40, 0x00, 0x40, 0x06, 0xe2, 0xa7,
    0xac, 0x11, 0x00, 0x03, 0xac, 0x11, 0x00, 0x02] ++ synBytes)) s0) =
    some (.ok (.ip ⟨⟨4, 5, 0, 40, 1, 0x4000, 64, 6, 0xE2A7, ipB, ipA⟩, synBytes⟩)) := by decide
/-- V-IP-4: rows 3, 5, 6, 7, 8, 9 and 10. -/
theorem test_ipParse_corners :
    bodyOf (responseOf (exec (.ipParse ((packetP.set 2 0).set 3 0x15)) s0)) = some [0x00] ∧
    bodyOf (responseOf (exec (.ipParse ((packetP.set 2 0).set 3 0x0a)) s0)) = some [] ∧
    bodyOf (responseOf (exec (.ipParse (packetP.set 0 0x46)) s0)) = some (packetP.drop 24) ∧
    bodyOf (responseOf (exec (.ipParse ((packetP.take 40).set 0 0x4f |>.set 3 0x28)) s0)) = some [] ∧
    bodyOf (responseOf (exec (.ipParse ((packetP.set 0 0x40).set 3 0x14)) s0)) =
      some (((packetP.set 0 0x40).set 3 0x14).take 20) ∧
    faultOf (exec (.ipParse (packetP.take 30)) s0) = some .ipBodyOutOfRange ∧
    responseOf (exec (.ipParse (packetP.take 19)) s0) = some (.error (.size 19)) := by decide
/-- V-IP-1, second row. -/
theorem test_ipMarshal : responseOf (exec (.ipMarshal ⟨⟨4, 5, 0, 40, 0x1234, 0, 32, 6, 0x3075, ipA, ipB⟩, synBytes⟩) s0) =
    some (.ok (.buffer ([0x45, 0x00, 0x00, 0x28, 0x12, 0x34, 0x00, 0x00, 0x20, 0x06, 0x30, 0x75] ++
      [0xac, 0x11, 0x00, 0x02, 0xac, 0x11, 0x00, 0x03] ++ synBytes))) := by decide
/-- V-IP-1. -/
theorem test_ipGet : responseOf (exec (.ipGet ⟨⟨4, 5, 0, 40, 0x1234, 0, 32, 6, 0x3075, ipA, ipB⟩, [1]⟩ .totLen) s0) =
      some (.ok (.u16 40)) ∧
    responseOf (exec (.ipGet ⟨⟨4, 5, 0, 40, 0x1234, 0, 32, 6, 0x3075, ipA, ipB⟩, [1]⟩ .saddr) s0) =
      some (.ok (.octets (.ip ipA))) := by decide

/-! ### TCP -/

/-- V-TCP-11. -/
theorem test_tcpNewRaw : segBytes (responseOf (exec (.tcpNewRaw 80 40000 5001 1001 5 0 { psh := true, ack := true } 8192 0x35C1
    0 [] [0x77, 0x6f, 0x72, 0x6c, 0x64, 0x21]) s0)) =
    some ([0x00, 0x50, 0x9c, 0x40, 0x00, 0x00, 0x13, 0x89, 0x00, 0x00, 0x03, 0xe9, 0x50, 0x18, 0x20, 0x00, 0x35, 0xc1] ++
      [0x00, 0x00, 0x77, 0x6f, 0x72, 0x6c, 0x64, 0x21]) := by decide
/-- V-TCP-1, V-TCP-6. -/
theorem test_tcpNewAuto :
    responseOf (exec (.tcpNewAuto ipA ipB 40000 80 1000 0 { syn := true } 4096 0 [] []) s0) =
      some (.ok (.tcp synSeg)) ∧
    segBytes (responseOf (exec (.tcpNewAuto ipA ipB 40000 80 1000 0 { syn := true } 4096 0 [0x02, 0x04, 0x05, 0xb4] []) s0)) =
      some ([0x9c, 0x40, 0x00, 0x50, 0x00, 0x00, 0x03, 0xe8, 0x00, 0x00, 0x00, 0x00, 0x90, 0x02, 0x10, 0x00, 0x5f, 0x86] ++
        [0x00, 0x00, 0x02, 0x04, 0x05, 0xb4]) := by decide
/-- V-TCP-7: all nine flags, an odd body. -/
theorem test_tcpNewAuto_flags : segBytes (responseOf (exec (.tcpNewAuto ipA ipB 1 2 0xFFFFFFFF 0x80000000
    ⟨true, true, true, true, true, true, true, true, true⟩ 0xFFFF 0x1234 [] [0x61, 0x62, 0x63]) s0)) =
    some ([0x00, 0x01, 0x00, 0x02, 0xff, 0xff, 0xff, 0xff, 0x80, 0x00, 0x00, 0x00, 0x51, 0xff, 0xff, 0xff, 0xff, 0x20] ++
      [0x12, 0x34, 0x61, 0x62, 0x63]) := by decide
/-- S9: byte 13 = 0x02 is SYN alone. -/
theorem test_tcpParse_anchor : responseOf (exec (.tcpParse ((List.replicate 20 (0 : Byte)).set 13 0x02)) s0) =
    some (.ok (.tcp ⟨⟨0, 0, 0, 0, 0, 0, { syn := true }, 0, 0, 0⟩, [], []⟩)) := by decide
/-- V-TCP-9; V-TCP-10: 19 bytes. -/
theorem test_tcpParse_ones : responseOf (exec (.tcpParse (((List.replicate 20 (0 : Byte)).set 12 0xff).set 13 0xff)) s0) =
      some (.ok (.tcp ⟨⟨0, 0, 0, 0, 15, 7, ⟨true, true, true, true, true, true, true, true, true⟩, 0, 0, 0⟩, [], []⟩)) ∧
    responseOf (exec (.tcpParse (List.replicate 19 0)) s0) = some (.error (.size 19)) := by decide
/-- V-TCP-1. -/
theorem test_tcpMarshal : responseOf (exec (.tcpMarshal synSeg) s0) = some (.ok (.buffer synBytes)) := by decide
/-- V-TCP-9: the two views; S9's `get_syn`. -/
theorem test_tcpGet :
    responseOf (exec (.tcpGet ⟨⟨0, 0, 0, 0, 15, 7, { ns := true, cwr := true, ece := true }, 0, 0, 0⟩, [], []⟩ .res1) s0) =
      some (.ok (.u4 0xF)) ∧
    responseOf (exec (.tcpGet ⟨⟨0, 0, 0, 0, 15, 7, { ns := true, cwr := true, ece := true }, 0, 0, 0⟩, [], []⟩ .res2) s0) =
      some (.ok (.u2 3)) ∧
    responseOf (exec (.tcpGet synSeg .syn) s0) = some (.ok (.flag true)) := by decide

/-! ### The Transmission Control Block -/

/-- 95 2.6: the values around the first wrap, at noon and at the end of the day. -/
theorem test_isn : isn 3 = 0 ∧ isn 17179869183 = 0xFFFFFFFF ∧ isn 17179869184 = 0 ∧ isn 43200000000 = 0x83BAEC00 ∧
    isn 86399999999 = 0x0775D7FF ∧ isn 86400000000 = 0x0775D800 := by decide
/-- V-TCB-3. -/
theorem test_tcbInit : tcbOf (exec (.tcbInit 8000) (withFrame [])) = some ⟨0, 2000, 0, 0, 0, 2000, 0, 0, 0, 0⟩ := by decide
/-- V-TCB-1. -/
theorem test_tcbSend_syn :
    tcbOf (exec (.tcbSend ipA 40000 ipB 80 { syn := true } 1 0 [] (txt ['x', 'y', 'z'])) (State.resetAt 17179869180)) =
      some ⟨0xFFFFFFFF, 0, 0, 1, 0, 0xFFFFFFFF, 0, 0, 0, 0⟩ ∧
    segBytes (responseOf (exec (.tcbSend ipA 40000 ipB 80 { syn := true } 1 0 [] (txt ['x', 'y', 'z']))
      (State.resetAt 17179869180))) =
      some ([0x9c, 0x40, 0x00, 0x50, 0xff, 0xff, 0xff, 0xff, 0x00, 0x00, 0x00, 0x00, 0x50, 0x02, 0x00, 0x01, 0xc8, 0xac] ++
        [0x00, 0x00, 0x78, 0x79, 0x7a]) := by decide
/-- V-TCB-2, steps 1 and 8. -/
theorem test_tcbSend_wrap :
    (tcbOf (exec (.tcbSend ipA 40000 ipB 80 { ack := true } 1 0 [] (txt ['a', 'b', 'c', 'd', 'e']))
      (State.resetAt 17179869176))).map (·.sndNxt) = some 3 ∧
    tcbOf (exec (.tcbSend ipA 40000 ipB 80 { urg := true, ack := true } 0xFFFF 0x1234 [] [])
      { s0 with tcb := ⟨1, 3, 0, 1, 0, 0xFFFFFFFE, 0, 9, 85, 30⟩ }) =
      some ⟨3, 3, 4660, 65535, 0, 0xFFFFFFFE, 0, 9, 85, 30⟩ := by decide

/-- The start of 95 2.7. -/
def recvStart : State := { s0 with tcb := ⟨77, 0, 0, 0, 0, 0, 500, 1, 2, 3⟩ }
/-- A segment of 95 2.7. -/
def recvSeg (f : Flags) (n : Nat) : TcpSeg := ⟨⟨0, 0, 9000, 40, 0, 0, f, 600, 0, 0x55⟩, [], List.replicate n 0⟩

/-- 95 2.7: rows 3, 4, 7, 8. -/
theorem test_tcbRecv_rows :
    tcbOf (exec (.tcbRecv (recvSeg { syn := true, ack := true } 10)) recvStart) =
      some ⟨41, 0, 0, 0, 0, 0, 9001, 600, 2, 9000⟩ ∧
    tcbOf (exec (.tcbRecv (recvSeg { fin := true } 0)) recvStart) = some ⟨77, 0, 0, 0, 0, 0, 9001, 600, 2, 3⟩ ∧
    tcbOf (exec (.tcbRecv (recvSeg { rst := true } 0)) recvStart) = some ⟨77, 0, 0, 0, 0, 0, 9001, 600, 2, 3⟩ ∧
    tcbOf (exec (.tcbRecv (recvSeg { urg := true } 0)) recvStart) = some ⟨77, 0, 0, 0, 0, 0, 9001, 600, 85, 3⟩ := by decide
/-- 95 2.7: rows 9, 10, 12; V-TCB-2 step 2. -/
theorem test_tcbRecv_body :
    tcbOf (exec (.tcbRecv (recvSeg {} 4)) recvStart) = some ⟨77, 0, 0, 0, 0, 0, 9004, 600, 2, 3⟩ ∧
    tcbOf (exec (.tcbRecv (recvSeg { ack := true } 4)) recvStart) = some ⟨41, 0, 0, 0, 0, 0, 9004, 600, 2, 3⟩ ∧
    tcbOf (exec (.tcbRecv (recvSeg { ack := true } 0)) recvStart) = some ⟨41, 0, 0, 0, 0, 0, 500, 600, 2, 3⟩ ∧
    (tcbOf (exec (.tcbRecv ⟨⟨0, 0, 0xFFFFFFFF, 0xFFFFFFFF, 0, 0, { ack := true }, 7, 0, 0⟩, [], [1, 2, 3]⟩) s0)).map
      (fun t => (t.sndUna, t.rcvNxt, t.rcvWnd)) = some (0, 2, 7) := by decide
/-- V-TCB-3. -/
theorem test_tcbGet : responseOf (exec (.tcbGet .sndNxt) s0) = some (.ok (.u32 1000)) ∧
    responseOf (exec (.tcbGet .rcvNxt) s0) = some (.ok (.u32 0)) := by decide

/-! ### The layout rows -/

/-- V-ARP-2. -/
theorem test_wireArp : responseOf (exec (.wireArp arpReply) s0) = some (.ok (.buffer arpReplyBytes)) := by decide
/-- V-IP-4's packet. -/
theorem test_wireIpv4Hdr : responseOf (exec (.wireIpv4Hdr ⟨4, 5, 0, 45, 2, 0x4000, 64, 6, 0xE2A1, ipB, ipA⟩) s0) =
    some (.ok (.buffer (packetP.take 20))) := by decide
/-- V-TCP-1. -/
theorem test_wireTcpHdr : responseOf (exec (.wireTcpHdr synSeg.toTcpHdr) s0) = some (.ok (.buffer synBytes)) := by decide
/-- R75, R76: one bit of each group. -/
theorem test_wireTcpCtrl : responseOf (exec (.wireTcpCtrl 5 4 { ns := true, cwr := true, fin := true }) s0) =
    some (.ok (.buffer [0x59, 0x81])) := by decide
/-- S11. -/
theorem test_wireTcpPseudo : responseOf (exec (.wireTcpPseudo ipA ipB 20) s0) =
    some (.ok (.buffer [0xac, 0x11, 0x00, 0x02, 0xac, 0x11, 0x00, 0x03, 0x00, 0x06, 0x00, 0x14])) := by decide

/-! ### The machine and its outside -/

/-- R91, V-TCB-3: the word 0x0143 is `TCB.GET(SND_NXT)`, and the next step runs it. -/
theorem test_step_runs_word : responseOf (step (s0.withFetchWord 16 0x0143)) = some (.ok (.u32 1000)) := by decide
/-- R92. -/
theorem test_step_refuses_word : refusalOf (step { s0 with program := [[0x07]] }) = some (.unassignedCommand [0x07]) := by
  decide
/-- P4: the status codes of R241. -/
theorem test_statusCode : statusCode (.ok .unit) = 0 ∧ statusCode (.error (.delimiterCount 2)) = 1 ∧
    statusCode (.error (.octet 5)) = 2 ∧ statusCode (.error (.size 4)) = 3 ∧ statusCode (.error (.transport [])) = 4 := by
  decide
/-- S8: the packet that wraps a SYN has total length 40, whatever the identification. -/
theorem test_wrap : (wrap 0xABCD synSeg ipA ipB).map (be16 · 2) = .ok 40 ∧
    (wrap 0 synSeg ipA ipB).map (·.length) = .ok 40 := by decide
/-- R96, R153: a segment of 65516 bytes is refused, as `IP.BUILD` refuses it. -/
theorem test_wrap_too_long (body : Buffer) (h : body.length = 65496) :
    wrap 0 { synSeg with body := body } ipA ipB = .error .ipBodyTooLong := by
  rw [wrap, if_pos]
  simp [tcpBytes, synSeg, h]
/-- The request of an `IP.BUILD` is read back whatever the body's length. -/
theorem decode_ipBuild_request (protocol : Byte) (src dst : Bytes4) (body : Buffer) :
    decode (encode (.ipBuild protocol src dst body)) = .ok (.ipBuild protocol src dst body, []) := by
  have hr : readIpBuild ([protocol] ++ bytes4List src ++ bytes4List dst ++ putBuffer body) =
      some (.ipBuild protocol src dst body, []) := by
    have hb := readBuffer_putBuffer body []
    rw [List.append_nil] at hb
    simp [readIpBuild, read8, hb]
  show (match readIpBuild ([protocol] ++ bytes4List src ++ bytes4List dst ++ putBuffer body) with
    | none => Except.error (DecodeError.badOperands 0x21)
    | some (i, rest) => .ok (i, rest)) = _
  rw [hr]
/-- R59, R153: an IPv4 body that is too long is refused as such when it is issued, however long it is. -/
theorem test_issue_long_body (protocol : Byte) (body : Buffer) (h : 65515 < body.length) :
    step (hostIssues (.ipBuild protocol ipA ipB body) s0) = .refused .ipBodyTooLong := by
  have hs : step (hostIssues (.ipBuild protocol ipA ipB body) s0) =
      exec (.ipBuild protocol ipA ipB body) (issue (hostIssues (.ipBuild protocol ipA ipB body) s0)) := by
    simp [step, fetch, hostIssues, s0, State.resetAt, decode_ipBuild_request]
  rw [hs, exec, execIpBuild, if_pos ((ipTooLong_iff body).2 h)]
/-- R257: the two answers have their own lengths, and either can fail without the other. -/
theorem test_address_source : ipOf [] (bindInterface ⟨[], some ipA, none⟩ s0) = some ⟨.ip ipA⟩ ∧
    macOf [] (bindInterface ⟨[], some ipA, none⟩ s0) = none ∧
    macOf [] (bindInterface ⟨[], none, some macA⟩ s0) = some ⟨.mac macA⟩ ∧
    ipOf [] (bindInterface ⟨[], none, some macA⟩ s0) = none ∧
    ipOf [0x6c] (bindInterface ⟨[], some ipA, some macA⟩ s0) = none := by decide
/-- P2 9b: attaching the payload moves RCV.NXT. -/
theorem test_attach : responseOf (exec (attach ⟨⟨80, 40000, 5001, 1001, 5, 0, { psh := true, ack := true }, 8192, 0x35C1, 0⟩,
    [], []⟩ [] [0x77, 0x6f]) s0) =
    some (.ok (.tcp ⟨⟨80, 40000, 5001, 1001, 5, 0, { psh := true, ack := true }, 8192, 0x35C1, 0⟩, [], [0x77, 0x6f]⟩)) := by
  decide


/-! ### Witnesses: a concrete state and operands that meet the hypotheses of each obligation -/

theorem witness_AddrOrderPairsCompose :
    (∃ a t, exec (.addrFromHost (.ip ipA)) s0 = .next t ∧ t.response = some (.ok (.addr a))) ∧
    (∃ a t, exec (.addrFromNet (.mac macA)) s0 = .next t ∧ t.response = some (.ok (.addr a))) :=
  ⟨⟨_, _, rfl, rfl⟩, ⟨_, _, rfl, rfl⟩⟩

/-- V-AD-5 and one delimiter too many, for both kinds. -/
theorem witness_FromStrReportsWrongDelimiterCount :
    ([] : Text).count (delimiter .ip) + 1 ≠ octetCount .ip ∧
    (txt ['1', '.', '2', '.', '3', '.', '4', '.']).count (delimiter .ip) + 1 ≠ octetCount .ip ∧
    (txt ['1', '.', '2', '.', '3', '.', '4']).count (delimiter .mac) + 1 ≠ octetCount .mac := by decide

theorem denotes_255 : Denotes .ip (txt ['2', '5', '5']) 255 :=
  ⟨by decide, [2, 5, 5], by simp [txt, IsDigit], by decide⟩
theorem denotes_0 (kind : AddrKind) : Denotes kind (txt ['0']) 0 :=
  ⟨by decide, [0], by simp [txt, IsDigit], by cases kind <;> decide⟩
theorem denotes_fF : Denotes .mac (txt ['f', 'F']) 255 :=
  ⟨by decide, [15, 15], by simp [txt, IsDigit], by decide⟩

/-- The smallest and the largest octet, for both kinds. -/
theorem witness_FromStrReadsValidParts :
    (∃ parts : List Text, ∃ vs : List Nat, parts.length = octetCount .ip ∧
      List.Forall₂ (fun part v => Denotes .ip part v ∧ v ≤ 255) parts vs) ∧
    (∃ parts : List Text, ∃ vs : List Nat, parts.length = octetCount .mac ∧
      List.Forall₂ (fun part v => Denotes .mac part v ∧ v ≤ 255) parts vs) :=
  ⟨⟨[txt ['2', '5', '5'], txt ['0'], txt ['0'], txt ['0']], [255, 0, 0, 0], rfl, by
      simp [denotes_255, denotes_0]⟩,
   ⟨[txt ['f', 'F'], txt ['0'], txt ['0'], txt ['0'], txt ['0'], txt ['0']], [255, 0, 0, 0, 0, 0], rfl, by
      simp [denotes_fF, denotes_0]⟩⟩

/-- An empty part first, and an empty part last. -/
theorem witness_FromStrReportsLeftmostBadPart :
    (∃ parts : List Text, parts.length = octetCount .ip ∧ (∀ part ∈ parts, delimiter .ip ∉ part) ∧
      (∀ k, k < 0 → ∃ v, Denotes .ip (parts.getD k []) v ∧ v ≤ 255) ∧ 0 < parts.length ∧
      ¬ ∃ v, Denotes .ip (parts.getD 0 []) v ∧ v ≤ 255) ∧
    (∃ parts : List Text, parts.length = octetCount .ip ∧ (∀ part ∈ parts, delimiter .ip ∉ part) ∧
      (∀ k, k < 3 → ∃ v, Denotes .ip (parts.getD k []) v ∧ v ≤ 255) ∧ 3 < parts.length ∧
      ¬ ∃ v, Denotes .ip (parts.getD 3 []) v ∧ v ≤ 255) := by
  refine ⟨⟨[[], txt ['0'], txt ['0'], txt ['0']], rfl, by decide, by omega, by decide, ?_⟩,
    ⟨[txt ['0'], txt ['0'], txt ['0'], []], rfl, by decide, ?_, by decide, ?_⟩⟩
  · rintro ⟨v, ⟨h, _⟩, _⟩; exact h rfl
  · intro k hk
    have h : (([txt ['0'], txt ['0'], txt ['0'], []] : List Text).getD k []) = txt ['0'] := by
      match k, hk with
      | 0, _ => rfl
      | 1, _ => rfl
      | 2, _ => rfl
    exact ⟨0, by rw [h]; exact denotes_0 .ip, by omega⟩
  · rintro ⟨v, ⟨h, _⟩, _⟩; exact h rfl

theorem witness_ArpParseReadsOffsets : 28 ≤ arpReplyBytes.length ∧ (arpReplyBytes.take 27).length < 28 := by decide
theorem witness_ArpCodecRoundTrips : 28 ≤ arpReplyBytes.length := by decide

theorem witness_ResolveAcceptsFirstFrame : (withFrame arpReplyBytes).env.arp.txAnswers.head?.join = none ∧
    (withFrame arpReplyBytes).env.arp.rx = [.frame arpReplyBytes] ∧ 28 ≤ arpReplyBytes.length := by decide
/-- Here with an accepting answer waiting. -/
theorem witness_ResolveSendsOnceReceivesOnce :
    (arpSendAnswer none (withFrame arpReplyBytes)).env.arp.txAnswers.head?.join = none ∧
    (arpSendAnswer none (withFrame arpReplyBytes)).env.arp.rx = [.frame arpReplyBytes] ∧ 28 ≤ arpReplyBytes.length := by
  decide
theorem witness_ResolveWaitsWithoutBound : s0.env.arp.txAnswers.head?.join = none ∧ s0.env.arp.rx = [] ∧
    28 ≤ arpReplyBytes.length := by decide
theorem witness_ResolveReportsTransportErrors :
    (∃ s : State, s.env.arp.txAnswers = [some (txt ['E'])]) ∧
    (∃ s : State, s.env.arp.txAnswers.head?.join = none ∧ s.env.arp.rx = [.failure (txt ['E'])]) ∧
    (∃ s : State, s.env.arp.txAnswers.head?.join = none ∧ s.env.arp.rx = [.frame (arpReplyBytes.take 27)] ∧
      (arpReplyBytes.take 27).length < 28) ∧
    (∃ s : State, s.awaitingArp = true ∧ s.env.arp.rx = [.failure (txt ['E'])]) ∧
    (∃ s : State, s.awaitingArp = true ∧ s.env.arp.rx = [.frame (arpReplyBytes.take 27)]) :=
  ⟨⟨arpSendAnswer (some (txt ['E'])) s0, rfl⟩, ⟨arpArrival (.failure (txt ['E'])) s0, rfl, rfl⟩,
   ⟨withFrame (arpReplyBytes.take 27), rfl, rfl, by decide⟩,
   ⟨arpArrival (.failure (txt ['E'])) { s0 with awaitingArp := true }, rfl, rfl⟩,
   ⟨arpArrival (.frame (arpReplyBytes.take 27)) { s0 with awaitingArp := true }, rfl, rfl⟩⟩

theorem witness_ChecksumIsComplementOfFoldedSum : (∃ b : Buffer, b.length < 131072) ∧ ∃ b : Buffer, 131072 ≤ b.length :=
  ⟨⟨[0xab], by decide⟩, ⟨List.replicate 131072 0, (List.length_replicate ..).ge⟩⟩
/-- V-CK-10. -/
theorem witness_ChecksumWrittenBackVerifies : ∃ (b : Buffer) (off : Nat) (c : U16) (s : State), b.length < 131072 ∧
    2 * off + 2 ≤ b.length ∧ memRead b (2 * off) 2 = 0 ∧
    exec (.cksum16 b) s = .next { s with response := some (.ok (.u16 c)) } :=
  ⟨[0x45, 0x00, 0x00, 0x3c, 0x1c, 0x46, 0x40, 0x00, 0x40, 0x06, 0x00, 0x00, 0xac, 0x10, 0x0a, 0x63, 0xac, 0x10, 0x0a, 0x0c],
   5, 0xB1E6, s0, by decide, by decide, by decide, rfl⟩
theorem witness_ChecksumIgnoresWordOrderAndZeroPadding :
    ([] : Buffer).length % 2 = 0 ∧ ([1, 2] : Buffer).length % 2 = 0 ∧ ([1, 2] : Buffer).length + 2 < 131072 ∧
    ([1] : Buffer).length % 2 = 1 ∧ ([1] : Buffer).length + 1 < 131072 := by decide

/-- V-IP-5: the longest body, and one byte more. -/
theorem witness_IpBuildFillsHeader : (∃ body : Buffer, body.length = 65515) ∧ (∃ body : Buffer, 65515 < body.length) ∧
    ∃ (p : IpPkt) (h : Buffer), exec (.wireIpv4Hdr { p.toIpHdr with check := 0 }) s0 =
      .next { s0 with response := some (.ok (.buffer h)) } :=
  ⟨⟨List.replicate 65515 0, List.length_replicate ..⟩, ⟨List.replicate 65516 0, (List.length_replicate ..).ge⟩,
   ⟨ipPacketOf 0 6 ipA ipB [], _, rfl⟩⟩
/-- V-IP-4: a total length at the header length, one above it and inside the buffer, and past the buffer. -/
theorem witness_IpParseReadsHeaderAndBody : 20 ≤ packetP.length ∧ 20 ≤ (packetP.take 30).length ∧
    (ipHdrFields ((packetP.set 2 0).set 3 0x14)).totLen.toNat ≤ (ipHdrFields packetP).ihl.toNat * 4 ∧
    (ipHdrFields packetP).ihl.toNat * 4 < (ipHdrFields ((packetP.set 2 0).set 3 0x15)).totLen.toNat ∧
    (ipHdrFields ((packetP.set 2 0).set 3 0x15)).totLen.toNat ≤ packetP.length ∧
    (ipHdrFields packetP).ihl.toNat * 4 < (ipHdrFields packetP).totLen.toNat ∧
    (packetP.take 30).length < (ipHdrFields (packetP.take 30)).totLen.toNat := by decide
/-- V-TCP-10, V-IP-4. -/
theorem witness_SizeErrorExactlyBelowTwentyBytes : (packetP.take 19).length < 20 ∧ 20 ≤ (packetP.take 20).length ∧
    (∃ t, exec (.ipParse packetP) s0 = .next t) ∧ (∃ t, exec (.tcpParse synBytes) s0 = .next t) ∧
    ∃ t, exec (.arpParse arpReplyBytes) s0 = .next t := ⟨by decide, by decide, ⟨_, rfl⟩, ⟨_, rfl⟩, ⟨_, rfl⟩⟩
theorem witness_IpParseInvertsMarshal : (∃ body : Buffer, body.length = 65515) ∧ ∃ (p : IpPkt) (b : Buffer), p.ihl = 5 ∧
    p.totLen.toNat = 20 + p.body.length ∧ exec (.ipMarshal p) s0 = .next { s0 with response := some (.ok (.buffer b)) } :=
  ⟨⟨List.replicate 65515 0, List.length_replicate ..⟩, ⟨⟨⟨4, 5, 0, 21, 1, 0x4000, 64, 17, 0, ipB, ipA⟩, [7]⟩, _, rfl, rfl,
    rfl⟩⟩
/-- S6: the first byte and the last byte of the header of V-IP-1. -/
theorem witness_IpChecksumDetectsAnyByteChange :
    (∃ p, exec (.ipBuild 6 ipA ipB []) s0 = .next { s0 with response := some (.ok (.ip p)) }) ∧
    ∃ (h : Buffer) (c d e : U16), h.length = 20 ∧ memRead h 10 2 = 0 ∧ (0x46 : Byte) ≠ byteAt h 0 ∧
      (0x02 : Byte) ≠ byteAt h 19 ∧ exec (.cksum16 h) s0 = .next { s0 with response := some (.ok (.u16 c)) } ∧
      exec (.cksum16 (h.set 0 0x46)) s0 = .next { s0 with response := some (.ok (.u16 d)) } ∧
      exec (.cksum16 (h.set 19 0x02)) s0 = .next { s0 with response := some (.ok (.u16 e)) } :=
  ⟨⟨_, rfl⟩, ⟨[0x45, 0x00, 0x00, 0x28, 0x00, 0x00, 0x00, 0x00, 0x20, 0x06, 0x00, 0x00, 0xac, 0x11, 0x00, 0x02, 0xac, 0x11,
    0x00, 0x03], _, _, _, rfl, rfl, by decide, by decide, rfl, rfl, rfl⟩⟩

/-- The limit, split between options and body, and one byte more. -/
theorem sizes_at_the_limit : ∃ options body : Buffer, options.length + body.length = 65515 ∧
    65515 < (options ++ [0]).length + body.length :=
  ⟨List.replicate 40 0, List.replicate 65475 0, by rw [List.length_replicate, List.length_replicate], by
    rw [List.length_append, List.length_replicate, List.length_replicate]; decide⟩
theorem sizes_around_the_limit : ∃ options body : Buffer, options.length + body.length ≤ 65515 ∧
    65515 < (options ++ [0]).length + body.length := by
  obtain ⟨o, b, h, h'⟩ := sizes_at_the_limit; exact ⟨o, b, h.le, h'⟩
/-- The sizes, and what the checksum's clause asks for, on V-TCP-1. -/
theorem witness_TcpNewAutoFillsHeader : (∃ options body : Buffer, options.length + body.length ≤ 65515 ∧
    65515 < (options ++ [0]).length + body.length) ∧
    ∃ ph b : Buffer, exec (.wireTcpPseudo ipA ipB 20) s0 = .next { s0 with response := some (.ok (.buffer ph)) } ∧
      exec (.tcpMarshal { synSeg with check := 0 }) s0 = .next { s0 with response := some (.ok (.buffer b)) } :=
  ⟨sizes_around_the_limit, _, _, rfl, rfl⟩
theorem witness_SendNumbersSegmentAndAdvances : ∃ options body : Buffer, options.length + body.length ≤ 65515 ∧
    65515 < (options ++ [0]).length + body.length := sizes_around_the_limit
theorem witness_BuiltSegmentVerifiesToZero : ∃ options body : Buffer, options.length + body.length = 65515 := by
  obtain ⟨o, b, h, _⟩ := sizes_at_the_limit; exact ⟨o, b, h⟩
theorem witness_TcpParseReadsHeaderOnly : 20 ≤ synBytes.length := by decide
theorem witness_TcpParseNeverExtractsPayload : 20 ≤ synBytes.length := by decide
theorem witness_TcpCodecRoundTrips : 20 ≤ synBytes.length := by decide

theorem witness_SendLeavesUnaAndWl2OfSegment : ∃ (t : State) (g : TcpSeg),
    exec (.tcbSend ipA 40000 ipB 80 { syn := true } 4096 0 [] []) s0 = .next t ∧ t.response = some (.ok (.tcp g)) :=
  ⟨_, _, rfl, rfl⟩
/-- The rows of R216: 1, 2, 3a, 3b and 4. -/
theorem witness_RecvUpdatesRcvNxtByTable :
    ((recvSeg { fin := true } 7).flags.syn = true ∨ (recvSeg { fin := true } 7).flags.fin = true) ∧
    ((recvSeg {} 0).flags.ack = false ∧ (recvSeg {} 0).body = []) ∧
    ((recvSeg {} 1).flags.syn = false ∧ (recvSeg {} 1).flags.fin = false ∧ (recvSeg {} 1).body ≠ []) ∧
    ((recvSeg { ack := true } 1).flags.ack = true ∧ (recvSeg { ack := true } 1).body ≠ []) ∧
    ((recvSeg { ack := true } 0).flags.syn = false ∧ (recvSeg { ack := true } 0).flags.fin = false ∧
      (recvSeg { ack := true } 0).flags.ack = true ∧ (recvSeg { ack := true } 0).body = []) := by decide
/-- S7. -/
theorem witness_HandshakeLeavesUnaAheadOfNxt : ∃ reply : TcpSeg, reply.flags.syn = true ∧ reply.flags.ack = true ∧
    reply.ackSeq = s0.tcb.sndNxt + 1 ∧ ([] : Buffer).length + ([] : Buffer).length ≤ 65515 :=
  ⟨⟨⟨80, 40000, 5000, 1001, 5, 0, { syn := true, ack := true }, 8192, 0x83A9, 0⟩, [], []⟩, rfl, rfl, rfl, by decide⟩
/-- A send with SYN and a send with a body. -/
theorem witness_SndNxtCountsWhatWasSent : ∃ (ops : List Instr) (t : State), ops.length = 2 ∧
    (∀ i ∈ ops, isInit i = false) ∧ runOps ops s0 = .next t :=
  ⟨[.tcbSend ipA 40000 ipB 80 { syn := true } 4096 0 [] [], .tcbSend ipA 40000 ipB 80 { ack := true } 4096 0 [] [0x68]], _,
    rfl, by decide, rfl⟩

theorem witness_CountersChangeOnlyByTheirOperations :
    (∃ t, exec (.tcbGet .iss) s0 = .next t ∧ writesTcb (.tcbGet .iss) = false ∧ isInit (.tcbGet .iss) = false) ∧
    (∃ i t, exec i s0 = .next t ∧ isInit i = false ∧ (∀ g, i ≠ .tcbRecv g) ∧ writesTcb i = true) ∧
    (∃ g t, exec (.tcbRecv g) s0 = .next t) :=
  ⟨⟨_, rfl, rfl, rfl⟩, ⟨.tcbSend ipA 40000 ipB 80 { fin := true } 4096 0 [] [], _, rfl, rfl, by simp, rfl⟩,
   ⟨synSeg, _, rfl⟩⟩
theorem witness_CodecResultsIgnoreState : ∃ (i : Instr) (s' t t' : State), readsTcb i = false ∧ isResolve i = false ∧
    s0.tcb ≠ s'.tcb ∧ exec i s0 = .next t ∧ exec i s' = .next t' :=
  ⟨.tcpParse synBytes, State.resetAt 8000, _, _, rfl, rfl, by decide, rfl, rfl⟩
/-- P4 #1 to #3, and a failing send. -/
theorem witness_ErrorsArePrecise :
    (∃ t e, exec (.addrFromStr .ip []) s0 = .next t ∧ t.response = some (.error e)) ∧
    (∃ t e, exec (.ipParse [0x45, 0x00, 0x00, 0x28]) s0 = .next t ∧ t.response = some (.error e) ∧
      isResolve (.ipParse [0x45, 0x00, 0x00, 0x28]) = false) ∧
    (∃ t e, exec (.arpResolve ipB macA ipA []) (arpSendAnswer (some []) s0) = .next t ∧ t.response = some (.error e)) :=
  ⟨⟨_, _, rfl, rfl⟩, ⟨_, _, rfl, rfl, rfl⟩, ⟨_, _, rfl, rfl⟩⟩
/-- One for each error of R241. -/
theorem witness_ErrorsOnlyFromListedOperations :
    (∃ t n, exec (.addrFromStr .ip []) s0 = .next t ∧ t.response = some (.error (.delimiterCount n))) ∧
    (∃ t n, exec (.addrFromStr .ip [0x2e, 0x2e, 0x2e]) s0 = .next t ∧ t.response = some (.error (.octet n))) ∧
    (∃ t n, exec (.tcpParse []) s0 = .next t ∧ t.response = some (.error (.size n))) ∧
    (∃ t x, exec (.arpResolve ipB macA ipA []) (arpArrival (.failure [0x45]) s0) = .next t ∧
      t.response = some (.error (.transport x))) :=
  ⟨⟨_, _, rfl, rfl⟩, ⟨_, _, rfl, rfl⟩, ⟨_, _, rfl, rfl⟩, ⟨_, _, rfl, rfl⟩⟩

theorem short_0 : (0 : U32).toNat < 2 ^ 16 := by decide
/-- A state in which the wait ends, and one in which a request runs. -/
theorem witness_StepKeepsInvariant : (∃ s t : State, Inv s ∧ s.awaitingArp = true ∧ step s = .next t) ∧
    ∃ s t : State, Inv s ∧ s.awaitingArp = false ∧ s.program ≠ [] ∧ step s = .next t :=
  ⟨⟨{ withFrame arpReplyBytes with awaitingArp := true }, _,
      ⟨short_0, short_0, short_0, short_0, fun _ => rfl, fun _ h => nomatch h⟩, rfl, rfl⟩,
   ⟨{ s0 with program := [[0x43, 0x01]] }, _,
      ⟨short_0, short_0, short_0, short_0, fun _ => rfl, fun _ h => nomatch h⟩, rfl, by decide, rfl⟩⟩
theorem witness_StepRunsDecodedRequest : ∃ (request : Buffer) (pending : List Buffer) (i : Instr) (rest : Buffer) (s : State),
    s.awaitingArp = false ∧ s.program = request :: pending ∧ decode request = .ok (i, rest) :=
  ⟨[0x43, 0x01], [[0x40]], _, _, { s0 with program := [[0x43, 0x01], [0x40]] }, rfl, rfl, rfl⟩
/-- Codes beside the ends of the families, and no request. -/
theorem witness_StepRefusesUnassignedCodes : ((0x00 : Byte) ∉ ([0x01, 0x02, 0x03, 0x04, 0x05, 0x06, 0x10, 0x11, 0x12, 0x13,
      0x14, 0x15, 0x20, 0x21, 0x22, 0x23, 0x24, 0x30, 0x31, 0x32, 0x33, 0x34, 0x40, 0x41, 0x42, 0x43] : List Byte)) ∧
    ((0x44 : Byte) ∉ ([0x01, 0x02, 0x03, 0x04, 0x05, 0x06, 0x10, 0x11, 0x12, 0x13,
      0x14, 0x15, 0x20, 0x21, 0x22, 0x23, 0x24, 0x30, 0x31, 0x32, 0x33, 0x34, 0x40, 0x41, 0x42, 0x43] : List Byte)) ∧
    (∃ s : State, s.awaitingArp = false ∧ s.program = [[0x44, 0x00]]) ∧ s0.awaitingArp = false ∧ s0.program = [] :=
  ⟨by decide, by decide, ⟨{ s0 with program := [[0x44, 0x00]] }, rfl, rfl⟩, rfl, rfl⟩
theorem witness_DecodeInvertsEncode : (Instr.tcbInit (2 ^ 64)).wellFormed = true ∧
    (Instr.arpResolve ipB macA ipA (txt ['e'])).wellFormed = true ∧ (Instr.tcbRecv synSeg).wellFormed = true := by decide
theorem witness_PlacedTableWordRunsNext : ∃ i, decodeTableWord 16 0x0143 = some i := ⟨_, rfl⟩
theorem witness_ProgramRunsInHostOrder : ∃ (ops : List Instr) (s : State), ops.length = 2 ∧
    (∀ i ∈ ops, i.wellFormed = true ∧ isResolve i = false) ∧ s.awaitingArp = false ∧ s.program = ops.map encode :=
  ⟨[.tcbInit 4000, .tcbGet .iss], { s0 with program := [encode (.tcbInit 4000), encode (.tcbGet .iss)] }, rfl, by decide, rfl,
    rfl⟩

end Sys2Proof.Tests
end

section
/-! PROOFS. What an operation that does not wait can do, and what it leaves unchanged (10_state.md R20, R31, R58). -/

namespace Sys2Proof.Machine

open Sys2Proof Sys2Proof.Safety

/-! ### The counters after an operation -/

/-- The counters after an operation that completes, from the counters before it (R58). -/
def countersAfter (c : Tcb) : Instr → Tcb
  | .tcbInit tUs => initTcb tUs
  | .tcbSend _ _ _ _ flags window urgentPointer _ body => sendCounters c flags window urgentPointer body
  | .tcbRecv segment => recvCounters c segment
  | _ => c

theorem countersAfter_of_not_writesTcb {i : Instr} (c : Tcb) (h : writesTcb i = false) : countersAfter c i = c := by
  unfold countersAfter
  split
  · exact nomatch h
  · exact nomatch h
  · exact nomatch h
  · rfl

/-- Only `TCB.INIT` writes ISS (R221 (a)). -/
theorem countersAfter_iss {i : Instr} (c : Tcb) (h : isInit i = false) : (countersAfter c i).iss = c.iss := by
  unfold countersAfter
  split
  · exact nomatch h
  · rw [sendCounters_eq]
  · rw [recvCounters_eq]
  · rfl

/-- `TCB.SEND` writes no receive-side counter (R213), and only `TCB.INIT` and `TCB.RECV` are left to write one. -/
theorem countersAfter_receive_side {i : Instr} (c : Tcb) (h : isInit i = false) (hr : ∀ g, i ≠ .tcbRecv g) :
    (countersAfter c i).rcvNxt = c.rcvNxt ∧ (countersAfter c i).rcvWnd = c.rcvWnd ∧
      (countersAfter c i).rcvUp = c.rcvUp ∧ (countersAfter c i).irs = c.irs := by
  unfold countersAfter
  split
  · exact nomatch h
  · rw [sendCounters_eq]; exact ⟨rfl, rfl, rfl, rfl⟩
  · next g => exact absurd rfl (hr g)
  · exact ⟨rfl, rfl, rfl, rfl⟩

/-- `TCB.RECV` writes SND.UNA and no other counter of the send side (R215). -/
theorem recvCounters_send_side (c : Tcb) (g : TcpSeg) :
    (recvCounters c g).sndNxt = c.sndNxt ∧ (recvCounters c g).sndUp = c.sndUp ∧
      (recvCounters c g).sndWl1 = c.sndWl1 ∧ (recvCounters c g).sndWl2 = c.sndWl2 := by
  rw [recvCounters_eq]; exact ⟨rfl, rfl, rfl, rfl⟩

/-! ### The operations -/

/-- Everything an operation other than `ARP.RESOLVE` can do: deliver a result and leave the counters of `countersAfter`, report
an error and change nothing else, or stop. -/
theorem exec_cases {i : Instr} (s : State) (h : isResolve i = false) :
    (∃ v, exec i s = .next (delivered { s with tcb := countersAfter s.tcb i } v)) ∨
    (∃ e, writesTcb i = false ∧ exec i s = .next (reported s e)) ∨
    (∃ f, exec i s = .fault f) ∨ (∃ r, exec i s = .refused r) := by
  cases i with
  | arpResolve => exact nomatch h
  | addrFromStr kind t =>
    simp only [exec, execAddrFromStr]
    split
    · exact .inl ⟨_, rfl⟩
    · exact .inr (.inl ⟨_, rfl, rfl⟩)
  | arpParse bytes =>
    simp only [exec, execArpParse]
    split
    · exact .inr (.inr (.inl ⟨_, rfl⟩))
    · exact .inl ⟨_, rfl⟩
  | ipParse bytes =>
    simp only [exec, execIpParse]
    split
    · exact .inr (.inl ⟨_, rfl, rfl⟩)
    · split
      · exact .inl ⟨_, rfl⟩
      · split
        · exact .inr (.inr (.inl ⟨_, rfl⟩))
        · exact .inl ⟨_, rfl⟩
  | tcpParse bytes =>
    simp only [exec, execTcpParse]
    split
    · exact .inr (.inl ⟨_, rfl, rfl⟩)
    · exact .inl ⟨_, rfl⟩
  | cksum16 | ipBuild | tcpNewAuto | tcbSend =>
    simp only [exec, execCksum16, execIpBuild, execTcpNewAuto, execTcbSend]
    split
    · exact .inr (.inr (.inr ⟨_, rfl⟩))
    · exact .inl ⟨_, rfl⟩
  | addrFromHost | addrFromNet | addrHost | addrNet | addrToStr | arpNew | arpSerialize | arpGet | arpMkreq
  | ipMarshal | ipGet | tcpNewRaw | tcpMarshal | tcpGet | tcbInit | tcbRecv | tcbGet
  | wireArp | wireIpv4Hdr | wireTcpHdr | wireTcpCtrl | wireTcpPseudo => exact .inl ⟨_, rfl⟩

/-- Everything the first step of `ARP.RESOLVE` can do: report that `send` failed, or send the request and look for the reply
(R136, R245). -/
theorem exec_arpResolve_cases (remoteIp : Bytes4) (localMac : Bytes6) (localIp : Bytes4) (iface : Text) (s : State) :
    (∃ text answers, s.env.arp.txAnswers = some text :: answers ∧
      exec (.arpResolve remoteIp localMac localIp iface) s =
        .next (reported (setArpTransport { s.env.arp with txAnswers := answers } s) (.transport text))) ∨
    (s.env.arp.txAnswers.head?.join = none ∧
      exec (.arpResolve remoteIp localMac localIp iface) s =
        arpAwaitReply (setArpTransport { s.env.arp with
          txAnswers := s.env.arp.txAnswers.tail
          sent := s.env.arp.sent ++ [⟨iface, macBroadcast, arpLayout (arpRequest localMac localIp remoteIp)⟩] } s)) := by
  rcases transportSend_cases s.env.arp iface macBroadcast (arpLayout (arpRequest localMac localIp remoteIp)) with
    ⟨text, answers, ht, hs⟩ | ⟨ht, hs⟩
  · exact .inl ⟨text, answers, ht, by simp only [exec, execArpResolve, hs, raise_eq]⟩
  · exact .inr ⟨ht, by simp only [exec, execArpResolve, hs]⟩

theorem isResolve_iff {i : Instr} : isResolve i = true ↔
    ∃ remoteIp localMac localIp iface, i = .arpResolve remoteIp localMac localIp iface := by
  cases i <;> simp [isResolve]

/-! ### What stays -/

/-- The wait of `ARP.RESOLVE` writes no counter. -/
theorem arpAwaitReply_next_tcb {s t : State} (h : arpAwaitReply s = .next t) : t.tcb = s.tcb := by
  rcases arpAwaitReply_cases s with ⟨-, he⟩ | ⟨_, _, -, he⟩ | ⟨_, _, -, -, he⟩ | ⟨_, _, -, -, he⟩ <;>
    cases he.symm.trans h <;> rfl

/-- The counters after any operation that completes (R20, R58). -/
theorem exec_next_tcb {i : Instr} {s t : State} (h : exec i s = .next t) : t.tcb = countersAfter s.tcb i := by
  cases hr : isResolve i with
  | true =>
    obtain ⟨remoteIp, localMac, localIp, iface, rfl⟩ := isResolve_iff.1 hr
    rcases exec_arpResolve_cases remoteIp localMac localIp iface s with ⟨_, _, -, he⟩ | ⟨-, he⟩
    · cases he.symm.trans h; rfl
    · exact (arpAwaitReply_next_tcb (he.symm.trans h)).trans (setArpTransport_tcb _ s)
  | false =>
    rcases exec_cases s hr with ⟨v, he⟩ | ⟨e, hw, he⟩ | ⟨f, he⟩ | ⟨r, he⟩
    · cases he.symm.trans h; rfl
    · cases he.symm.trans h; exact (countersAfter_of_not_writesTcb s.tcb hw).symm
    · exact nomatch he.symm.trans h
    · exact nomatch he.symm.trans h

/-- An operation that does not wait and completes touches neither the host's program nor the environment (R31, R58). -/
theorem exec_next_frame {i : Instr} {s t : State} (hr : isResolve i = false) (h : exec i s = .next t) :
    t.awaitingArp = s.awaitingArp ∧ t.program = s.program ∧ t.env = s.env := by
  rcases exec_cases s hr with ⟨v, he⟩ | ⟨e, -, he⟩ | ⟨f, he⟩ | ⟨r, he⟩
  · cases he.symm.trans h; exact ⟨rfl, rfl, rfl⟩
  · cases he.symm.trans h; exact ⟨rfl, rfl, rfl⟩
  · exact nomatch he.symm.trans h
  · exact nomatch he.symm.trans h

end Sys2Proof.Machine
end

section
/-! PROOFS. The decoder takes back what the encoder wrote, and a step runs what the next request decodes to (10_state.md R31,
30_encoding.md R90, R91). -/

namespace Sys2Proof.Machine

open Sys2Proof Sys2Proof.Safety

/-- A request decodes to what the reader in its code's row of the table reads. -/
theorem decode_of_reader {code : Byte} {rd : Reader Instr} {operands rest : Buffer} {i : Instr}
    (hl : commandTable.lookup code = some rd) (hr : rd operands = some (i, rest)) :
    decode (code :: operands) = .ok (i, rest) := by
  simp only [decode, hl, hr]

/-- An operation's reader, one operand further: a request of many operands is read by a chain of these. -/
theorem bind_of_read {α β : Type} {rd : Reader α} {next : α × Buffer → Option β} {b r : Buffer} {x : α} {y : β}
    (h : rd b = some (x, r)) (hn : next (x, r) = some y) : (rd b >>= next) = some y :=
  Option.bind_eq_some_iff.2 ⟨(x, r), h, hn⟩

/-- The reader of a single operand. -/
theorem readOne_of_reader {α : Type} {rd : Reader α} {mk : α → Instr} {operands rest : Buffer} {x : α}
    (h : rd operands = some (x, rest)) : readOne rd mk operands = some (mk x, rest) := by
  simp only [readOne, h, Option.map_some]

/-- The decoder inverts the encoder on every operation, whatever follows the request (log entry 1). -/
theorem decode_encode_append {i : Instr} (rest : Buffer) (h : i.wellFormed = true) :
    decode (encode i ++ rest) = .ok (i, rest) := by
  cases i with
  | addrFromHost | addrFromNet => exact decode_of_reader rfl (readOne_of_reader (readOctets_putOctets _ rest))
  | addrHost | addrNet | addrToStr => exact decode_of_reader rfl (readOne_of_reader (readAddr_putOctets _ rest))
  | arpSerialize => exact decode_of_reader rfl (readOne_of_reader (readArp_arpLayout _ rest))
  | arpParse | cksum16 | ipParse | tcpParse =>
    exact decode_of_reader rfl (readOne_of_reader (readBuffer_putBuffer _ rest))
  | ipMarshal => exact decode_of_reader rfl (readOne_of_reader (readIpPkt_putIpPkt _ rest))
  | tcpMarshal | tcbRecv => exact decode_of_reader rfl (readOne_of_reader (readTcpSeg_putTcpSeg _ rest))
  | tcbInit => exact decode_of_reader rfl (readOne_of_reader (readNat_putNat _ rest))
  | tcbGet => exact decode_of_reader rfl (readOne_of_reader (readName_counter _ rest))
  | addrFromStr => exact decode_of_reader rfl (by simp [readAddrFromStr])
  | arpNew => exact decode_of_reader rfl (by simp [readArpNew])
  | arpGet => exact decode_of_reader rfl (by simp [readArpGet])
  | arpMkreq => exact decode_of_reader rfl (by simp [readArpMkreq])
  | arpResolve => exact decode_of_reader rfl (by simp [readArpResolve])
  | ipBuild => exact decode_of_reader rfl (by simp [readIpBuild, read8])
  | ipGet => exact decode_of_reader rfl (by simp [readIpGet])
  | tcpNewRaw => exact decode_of_reader rfl (by simp [readTcpNewRaw])
  | tcpNewAuto =>
    simp only [encode, List.cons_append, List.append_assoc]
    exact decode_of_reader rfl <| bind_of_read (read4_bytes4List _ _) <| bind_of_read (read4_bytes4List _ _) <|
      bind_of_read (read16_put16 _ _) <| bind_of_read (read16_put16 _ _) <|
      bind_of_read (read32_put32 _ _) <| bind_of_read (read32_put32 _ _) <|
      bind_of_read (readFlags_putFlags _ _) <| bind_of_read (read16_put16 _ _) <| bind_of_read (read16_put16 _ _) <|
      bind_of_read (readBuffer_putBuffer _ _) <| bind_of_read (readBuffer_putBuffer _ _) rfl
  | tcpGet => exact decode_of_reader rfl (by simp [readTcpGet])
  | tcbSend =>
    simp only [encode, List.cons_append, List.append_assoc]
    exact decode_of_reader rfl <| bind_of_read (read4_bytes4List _ _) <| bind_of_read (read16_put16 _ _) <|
      bind_of_read (read4_bytes4List _ _) <| bind_of_read (read16_put16 _ _) <|
      bind_of_read (readFlags_putFlags _ _) <| bind_of_read (read16_put16 _ _) <| bind_of_read (read16_put16 _ _) <|
      bind_of_read (readBuffer_putBuffer _ _) <| bind_of_read (readBuffer_putBuffer _ _) rfl
  | wireArp | wireIpv4Hdr | wireTcpHdr | wireTcpCtrl | wireTcpPseudo => exact nomatch h

/-- A request and nothing after it. -/
theorem decode_encode {i : Instr} (h : i.wellFormed = true) : decode (encode i) = .ok (i, []) := by
  simpa using decode_encode_append [] h

theorem fetch_of_decode {s : State} {request rest : Buffer} {pending : List Buffer} {i : Instr}
    (hp : s.program = request :: pending) (hd : decode request = .ok (i, rest)) : fetch s = .operation i := by
  simp only [fetch, hp, hd]

/-- With no operation in progress a step runs the operation of the next request. -/
theorem step_of_decode {s : State} {request rest : Buffer} {pending : List Buffer} {i : Instr}
    (ha : s.awaitingArp = false) (hp : s.program = request :: pending) (hd : decode request = .ok (i, rest)) :
    step s = exec i (issue s) := by
  simp [step, ha, fetch_of_decode hp hd]

/-! ### A program, step by step -/

/-- Operations issued as requests run one a step, in the host's order, and the run ends as they do (R31, R61): each leaves the
requests after it pending and no operation in progress, so the next step takes the next one. -/
theorem run_eq_runOps (ops : List Instr) (s : State) (hops : ∀ i ∈ ops, i.wellFormed = true ∧ isResolve i = false)
    (ha : s.awaitingArp = false) (hp : s.program = ops.map encode) :
    core.run ops.length s = runOps ops s := by
  induction ops generalizing s with
  | nil => rfl
  | cons i ops ih =>
    obtain ⟨⟨hwf, hres⟩, hrest⟩ := List.forall_mem_cons.1 hops
    have hstep : core.step s = exec i (issue s) := step_of_decode ha hp (decode_encode hwf)
    rw [List.length_cons, runOps]
    cases hx : exec i (issue s) with
    | next t =>
      obtain ⟨hta, htp, -⟩ := exec_next_frame hres hx
      rw [run_succ_next core _ (hstep.trans hx)]
      exact ih t hrest (hta.trans ha) (by rw [htp, issue_program, hp]; rfl)
    | fault f => exact run_succ_fault core _ (hstep.trans hx)
    | refused r => exact run_succ_refused core _ (hstep.trans hx)

end Sys2Proof.Machine
end

section
/-! PROOFS. The statements of 10_state.md. -/

namespace Sys2Proof.Proofs

open Sys2Proof Sys2Proof.Machine Sys2Proof.Safety

/-- Settles O59, by induction on the program: `run_eq_runOps`. -/
theorem programRunsInHostOrder : Obligations.ProgramRunsInHostOrder := run_eq_runOps

/-- Settles O47: an operation that completes leaves the counters of `countersAfter`, which changes no others. -/
theorem countersChangeOnlyByTheirOperations : Obligations.CountersChangeOnlyByTheirOperations := by
  intro i s t h
  rw [exec_next_tcb h]
  refine ⟨countersAfter_of_not_writesTcb s.tcb, countersAfter_iss s.tcb, countersAfter_receive_side s.tcb, ?_⟩
  rintro g rfl
  exact recvCounters_send_side s.tcb g

/-- Settles O39: all ten counters are written, whatever they were. -/
theorem initZeroesOtherCounters : Obligations.InitZeroesOtherCounters := fun _ _ => rfl

/-- Settles O55, by `step_of_decode`; the state it names is the one in which the first request has been issued. -/
theorem stepRunsDecodedRequest : Obligations.StepRunsDecodedRequest := by
  intro request pending i rest s ha hp hd
  rw [step_of_decode ha hp hd, issue_of_program hp]

end Sys2Proof.Proofs
end

section
/-! PROOFS. What an operation answers without the state, and the parts of the environment that no operation touches
(20_memory.md R58, 70_reset_and_hazards.md R271). -/

namespace Sys2Proof.Machine

open Sys2Proof Sys2Proof.Safety

/-! ### Operations that do not read the state -/

/-- Two outcomes of which the host sees the same: both complete with one response, or both stop for one reason. -/
def SameAnswer : Result → Result → Prop
  | .next t, .next t' => t.response = t'.response
  | .fault f, .fault f' => f = f'
  | .refused r, .refused r' => r = r'
  | _, _ => False

theorem sameAnswer_reply (v : Value) (s s' : State) : SameAnswer (reply v s) (reply v s') := rfl

theorem sameAnswer_raise (e : OpError) (s s' : State) : SameAnswer (raise e s) (raise e s') := rfl

theorem sameAnswer_fault (f : Fault) : SameAnswer (.fault f) (.fault f) := rfl

theorem sameAnswer_refused (r : Refusal) : SameAnswer (.refused r) (.refused r) := rfl

/-- A test of the operands comes out alike in both states. -/
theorem sameAnswer_ite {c : Prop} [Decidable c] {a a' b b' : Result} (ha : SameAnswer a a') (hb : SameAnswer b b') :
    SameAnswer (if c then a else b) (if c then a' else b') := by
  split
  · exact ha
  · exact hb

/-- An operation that reads neither the counters nor a transport answers the same in every state (R58, R271). -/
theorem exec_sameAnswer {i : Instr} (s s' : State) (hi : readsTcb i = false) (hr : isResolve i = false) :
    SameAnswer (exec i s) (exec i s') := by
  cases i with
  | tcbSend | tcbGet => exact nomatch hi
  | arpResolve => exact nomatch hr
  | addrFromStr kind text =>
    simp only [exec, execAddrFromStr]
    split
    · exact sameAnswer_reply _ s s'
    · exact sameAnswer_raise _ s s'
  | arpParse => exact sameAnswer_ite (sameAnswer_fault _) (sameAnswer_reply _ s s')
  | ipParse =>
    exact sameAnswer_ite (sameAnswer_raise _ s s') <| sameAnswer_ite (sameAnswer_reply _ s s') <|
      sameAnswer_ite (sameAnswer_fault _) (sameAnswer_reply _ s s')
  | tcpParse => exact sameAnswer_ite (sameAnswer_raise _ s s') (sameAnswer_reply _ s s')
  | cksum16 | ipBuild | tcpNewAuto => exact sameAnswer_ite (sameAnswer_refused _) (sameAnswer_reply _ s s')
  | tcbInit | tcbRecv => exact sameAnswer_reply .unit _ _
  | addrFromHost | addrFromNet | addrHost | addrNet | addrToStr | arpNew | arpSerialize | arpGet | arpMkreq
  | ipMarshal | ipGet | tcpNewRaw | tcpMarshal | tcpGet
  | wireArp | wireIpv4Hdr | wireTcpHdr | wireTcpCtrl | wireTcpPseudo => exact sameAnswer_reply _ s s'

/-! ### What no operation touches -/

/-- Two states alike but for the counters, the wait, the response and the ARP transport. -/
def SameBeyondArp (t s : State) : Prop :=
  t.program = s.program ∧ t.env.ipv4 = s.env.ipv4 ∧ t.env.locals = s.env.locals ∧ t.env.clock = s.env.clock

theorem setArpTransport_sameBeyondArp (a : Transport) (s : State) : SameBeyondArp (setArpTransport a s) s :=
  ⟨rfl, rfl, rfl, rfl⟩

theorem SameBeyondArp.trans {u t s : State} (h : SameBeyondArp u t) (h' : SameBeyondArp t s) : SameBeyondArp u s := by
  obtain ⟨hp, h4, hl, hc⟩ := h
  obtain ⟨hp', h4', hl', hc'⟩ := h'
  exact ⟨hp.trans hp', h4.trans h4', hl.trans hl', hc.trans hc'⟩

/-- The wait of `ARP.RESOLVE` uses the ARP transport only (R58, R256). -/
theorem arpAwaitReply_next_sameBeyondArp {s t : State} (h : arpAwaitReply s = .next t) : SameBeyondArp t s := by
  rcases arpAwaitReply_cases s with ⟨-, he⟩ | ⟨_, _, -, he⟩ | ⟨_, _, -, -, he⟩ | ⟨_, _, -, -, he⟩ <;>
    cases he.symm.trans h <;> exact ⟨rfl, rfl, rfl, rfl⟩

/-- No operation that completes touches the host's program, the IPv4 transport, the local addresses or the clock. -/
theorem exec_next_sameBeyondArp {i : Instr} {s t : State} (h : exec i s = .next t) : SameBeyondArp t s := by
  cases hr : isResolve i with
  | true =>
    obtain ⟨remoteIp, localMac, localIp, iface, rfl⟩ := isResolve_iff.1 hr
    rcases exec_arpResolve_cases remoteIp localMac localIp iface s with ⟨_, _, -, he⟩ | ⟨-, he⟩
    · cases he.symm.trans h; exact setArpTransport_sameBeyondArp _ s
    · exact (arpAwaitReply_next_sameBeyondArp (he.symm.trans h)).trans (setArpTransport_sameBeyondArp _ s)
  | false =>
    obtain ⟨-, hp, henv⟩ := exec_next_frame hr h
    exact ⟨hp, by rw [henv], by rw [henv], by rw [henv]⟩

end Sys2Proof.Machine
end

section
/-! PROOFS. The statements of 20_memory.md. -/

namespace Sys2Proof.Proofs

open Sys2Proof Sys2Proof.Machine Sys2Proof.Safety

/-- Settles O48: the answers are alike by `exec_sameAnswer`, and the frame is that of `exec_next_frame` outside
`ARP.RESOLVE` and of `exec_next_sameBeyondArp` for every operation. -/
theorem codecResultsIgnoreState : Obligations.CodecResultsIgnoreState := by
  refine ⟨fun i s s' t t' hi hr h h' => ?_, fun i s t hr h => ?_, fun i s t h => exec_next_sameBeyondArp h⟩
  · have hsame := exec_sameAnswer s s' hi hr
    rwa [h, h'] at hsame
  · obtain ⟨hwait, -, henv⟩ := exec_next_frame hr h
    exact ⟨henv, hwait⟩

end Sys2Proof.Proofs
end

section
/-! PROOFS. The fields of a message's bytes, and what the decoder makes of a command code and of a word of the opcode table
(30_encoding.md R71, R78, R91, R92). -/

namespace Sys2Proof.Machine

open Sys2Proof

/-! ### The fields of an ARP message and of a pseudo-header as bytes -/

/-- Every field of the record in a buffer, by the bytes at its offset (R71). -/
theorem arpFields_bytes {b : Buffer} (h : 28 ≤ b.length) :
    memRead b 0 2 = (arpFields b).htype.toNat ∧ memRead b 2 2 = (arpFields b).ptype.toNat ∧
    memRead b 4 1 = (arpFields b).hlen.toNat ∧ memRead b 5 1 = (arpFields b).plen.toNat ∧
    memRead b 6 2 = (arpFields b).oper.toNat ∧
    slice b 8 14 = bytes6List (arpFields b).sha ∧ slice b 14 18 = bytes4List (arpFields b).spa ∧
    slice b 18 24 = bytes6List (arpFields b).tha ∧ slice b 24 28 = bytes4List (arpFields b).tpa :=
  ⟨(be16_toNat b 0).symm, (be16_toNat b 2).symm, memRead_one b 4, memRead_one b 5, (be16_toNat b 6).symm,
    (bytes6List_at b 8 (by omega)).symm, (bytes4List_at b 14 (by omega)).symm,
    (bytes6List_at b 18 (by omega)).symm, (bytes4List_at b 24 h).symm⟩

/-- The length in a pseudo-header, as the number in its last two bytes (R78). -/
theorem pseudoHeader_tcpLength (srcIp dstIp : Bytes4) (len : U16) :
    memRead (pseudoHeader srcIp dstIp len) 10 2 = len.toNat := by
  rw [← be16_toNat]
  exact congrArg BitVec.toNat (join16 len)

/-! ### Command codes -/

/-- A request whose code has no row in the command table is rejected for its code, whatever follows it (R92). -/
theorem decode_of_unassigned {code : Byte} (operands : Buffer) (h : code ∉ commandTable.map Prod.fst) :
    decode (code :: operands) = .error (.unassignedCode code) := by
  have hl : commandTable.lookup code = none :=
    List.lookup_eq_none_iff.2 fun row hrow => bne_iff_ne.2 fun hc => h (hc ▸ List.mem_map_of_mem hrow)
  simp only [decode, hl]

/-- With no operation in progress a step refuses a request whose code is unassigned (R92, D2). -/
theorem step_of_unassigned {s : State} {code : Byte} {operands : Buffer} {pending : List Buffer}
    (hc : code ∉ commandTable.map Prod.fst) (ha : s.awaitingArp = false) (hp : s.program = (code :: operands) :: pending) :
    step s = .refused (.unassignedCommand (code :: operands)) := by
  simp [step, ha, fetch, hp, decode_of_unassigned operands hc]

/-- With nothing in progress and nothing issued a step changes nothing (R249, log entry 2). -/
theorem step_of_idle {s : State} (ha : s.awaitingArp = false) (hp : s.program = []) : step s = .next s := by
  simp [step, ha, fetch, hp]

/-! ### Words of the opcode table -/

/-- A table word that decodes is a request that decodes. -/
theorem decodeTableWord_eq_some_iff {nbits w : Nat} {i : Instr} :
    decodeTableWord nbits w = some i ↔ ∃ rest, decode (tableRequest nbits w) = .ok (i, rest) := by
  unfold decodeTableWord
  cases decode (tableRequest nbits w) with
  | error e => simp
  | ok ir => simp [Prod.ext_iff]

/-- A table word whose bytes begin with an operation's request decodes to that operation. -/
theorem decodeTableWord_of_encode {nbits w : Nat} {i : Instr} (rest : Buffer) (hi : i.wellFormed = true)
    (hw : tableRequest nbits w = encode i ++ rest) : decodeTableWord nbits w = some i :=
  decodeTableWord_eq_some_iff.2 ⟨rest, hw ▸ decode_encode_append rest hi⟩

/-- A table word whose first byte is an unassigned code decodes to nothing (R92). -/
theorem decodeTableWord_of_unassigned {nbits w : Nat} {code : Byte} {operands : Buffer}
    (hc : code ∉ commandTable.map Prod.fst) (hw : tableRequest nbits w = code :: operands) :
    decodeTableWord nbits w = none := by
  simp only [decodeTableWord, hw, decode_of_unassigned operands hc]

end Sys2Proof.Machine
end

section
/-! PROOFS. The statements of 30_encoding.md. -/

namespace Sys2Proof.Proofs

open Sys2Proof Sys2Proof.Machine

/-- Settles O57, by `decode_encode_append`: each operand's reader takes back what its writer wrote. -/
theorem decodeInvertsEncode : Obligations.DecodeInvertsEncode := fun _ rest hi => decode_encode_append rest hi

/-- Settles O10: the layout's bytes are those of the record read back from it, which is the message. -/
theorem arpSerializeWritesLayout : Obligations.ArpSerializeWritesLayout := by
  intro m s
  have hm : arpFields (arpLayout m) = m := by simpa using arpFields_layout m []
  have hb := arpFields_bytes (arpLayout_length m).ge
  rw [hm] at hb
  exact ⟨arpLayout m, rfl, rfl, arpLayout_length m, hb⟩

/-- Settles O31: the two addresses and the constants stand in the layout as they are, and the length is
`pseudoHeader_tcpLength`. -/
theorem pseudoHeaderLayout : Obligations.PseudoHeaderLayout := fun srcIp dstIp len _ =>
  ⟨pseudoHeader srcIp dstIp len, rfl, pseudoHeader_length srcIp dstIp len, rfl, rfl, rfl, rfl,
    pseudoHeader_tcpLength srcIp dstIp len⟩

/-- Settles O56: the 26 codes listed are those of the command table's rows. -/
theorem stepRefusesUnassignedCodes : Obligations.StepRefusesUnassignedCodes :=
  ⟨fun _ _ _ _ hc ha hp => step_of_unassigned hc ha hp, fun _ ha hp => step_of_idle ha hp⟩

/-- Settles O58: the word is placed as the next request and issued from there, and nothing else of the state changes. -/
theorem placedTableWordRunsNext : Obligations.PlacedTableWordRunsNext := by
  intro nbits w i s h
  obtain ⟨rest, hd⟩ := decodeTableWord_eq_some_iff.1 h
  exact step_of_decode (s := s.withFetchWord nbits w) rfl rfl hd

/-- Settles O60: each word's bytes begin with the request of its operation, all operands but those it names being zero. -/
theorem someRequestWordsDecode : Obligations.SomeRequestWordsDecode :=
  ⟨decodeTableWord_of_encode _ rfl rfl, decodeTableWord_of_encode _ rfl rfl, decodeTableWord_of_encode _ rfl rfl,
    decodeTableWord_of_encode _ rfl rfl, decodeTableWord_of_encode _ rfl rfl,
    decodeTableWord_of_unassigned (code := 0x00) (by decide) rfl,
    decodeTableWord_of_unassigned (code := 0x07) (by decide) rfl,
    decodeTableWord_of_unassigned (code := 0xff) (by decide) rfl⟩

end Sys2Proof.Proofs
end

section
/-! PROOFS. Address text: a part as the number it denotes, the split at the delimiter, and a rendered octet as a part
(40_address.md R110 to R120). -/

namespace Sys2Proof.Machine

open Sys2Proof Sys2Proof.Safety

/-! ### The octets of an address -/

@[simp] theorem octetsList_reverseOctets (b : Octets) : octetsList (reverseOctets b) = (octetsList b).reverse := by
  cases b <;> rfl

@[simp] theorem octetsKind_reverseOctets (b : Octets) : octetsKind (reverseOctets b) = octetsKind b := by cases b <;> rfl

@[simp] theorem reverseOctets_reverseOctets (b : Octets) : reverseOctets (reverseOctets b) = b := by cases b <;> rfl

@[simp] theorem octetsList_length (b : Octets) : (octetsList b).length = octetCount (octetsKind b) := by cases b <;> rfl

@[simp] theorem octetsKind_addrOfBytes (kind : AddrKind) (b : Buffer) : octetsKind (addrOfBytes kind b).oct = kind := by
  cases kind <;> rfl

/-- An address made of exactly `N` bytes has those bytes as its octets. -/
theorem octetsList_addrOfBytes {kind : AddrKind} {b : Buffer} (h : b.length = octetCount kind) :
    octetsList (addrOfBytes kind b).oct = b := by
  cases kind with
  | ip => exact (bytes4List_at b 0 h.ge).trans (List.take_of_length_le h.le)
  | mac => exact (bytes6List_at b 0 h.ge).trans (List.take_of_length_le h.le)

/-- The address made of an address's own octets. -/
theorem addrOfBytes_octetsList (a : Addr) : addrOfBytes (octetsKind a.oct) (octetsList a.oct) = a := by
  obtain ⟨_ | _⟩ := a <;> rfl

/-! ### Digits and parts (R117) -/

theorem numericBase_eq_radix (kind : AddrKind) : numericBase kind = radix kind := by cases kind <;> rfl

/-- The ranges of characters tested are disjoint, so each digit is met in the test for its own range. -/
theorem digitValue_eq_some_iff {kind : AddrKind} {c : Byte} {d : Nat} :
    digitValue kind c = some d ↔ IsDigit kind c d := by
  cases kind with
  | ip => simp only [digitValue, IsDigit]; grind
  | mac => simp only [digitValue, IsDigit]; grind

/-- The digits read so far count as one leading digit. -/
theorem digitsValue_eq_some_iff {kind : AddrKind} {text : Text} {acc v : Nat} :
    digitsValue kind acc text = some v ↔
      ∃ ds, List.Forall₂ (IsDigit kind) text ds ∧ v = Nat.ofDigits (radix kind) (ds.reverse ++ [acc]) := by
  induction text generalizing acc with
  | nil => simp [digitsValue, eq_comm]
  | cons c text ih =>
    have hshift (ds : List Nat) (d : Nat) :
        Nat.ofDigits (radix kind) (ds.reverse ++ [acc * numericBase kind + d]) =
          Nat.ofDigits (radix kind) ((d :: ds).reverse ++ [acc]) := by
      simp [numericBase_eq_radix, Nat.ofDigits_append, Nat.ofDigits_cons, mul_comm, add_comm]
    simp only [List.forall₂_cons_left_iff, ← digitValue_eq_some_iff, digitsValue]
    cases hd : digitValue kind c with
    | none => simp
    | some d => simp [ih, hshift]

/-- A part is read as an octet exactly when it denotes a number up to 255. -/
theorem partValue_eq_some_iff {kind : AddrKind} {part : Text} {o : Byte} :
    partValue kind part = some o ↔ ∃ v, Denotes kind part v ∧ v ≤ 255 ∧ o = BitVec.ofNat 8 v := by
  cases part with
  | nil => simp [partValue, Denotes]
  | cons c rest =>
    have hden (v : Nat) : Denotes kind (c :: rest) v ↔ digitsValue kind 0 (c :: rest) = some v := by
      simp [Denotes, digitsValue_eq_some_iff]
    simp only [hden, partValue]
    cases digitsValue kind 0 (c :: rest) with
    | none => simp
    | some v => simp [eq_comm]

theorem delimiter_not_digit {kind : AddrKind} {d : Nat} : ¬ IsDigit kind (delimiter kind) d := by
  cases kind <;> simp [IsDigit, delimiter] <;> omega

/-- A part that denotes a number holds no delimiter. -/
theorem delimiter_notMem_of_denotes {kind : AddrKind} {part : Text} {v : Nat} (h : Denotes kind part v) :
    delimiter kind ∉ part := by
  obtain ⟨-, ds, hds, -⟩ := h
  induction hds with
  | nil => exact List.not_mem_nil
  | cons hd _ ih => exact List.not_mem_cons_of_ne_of_not_mem (fun hc => delimiter_not_digit (hc ▸ hd)) ih

/-! ### The split and the join (R116, R118) -/

theorem splitText_eq_splitOn (d : Byte) (text : Text) : splitText d text = text.splitOn d := by
  induction text with
  | nil => rfl
  | cons c text ih =>
    simp only [splitText, ih, List.splitOn_cons_eq_if_modifyHead, beq_iff_eq]
    cases h : text.splitOn d with
    | nil => exact absurd h (List.splitOn_ne_nil d text)
    | cons part parts => rfl

theorem joinText_eq_intercalate (d : Byte) (parts : List Text) : joinText d parts = [d].intercalate parts := by
  induction parts with
  | nil => rfl
  | cons part parts ih =>
    cases parts with
    | nil => simp [joinText]
    | cons next parts => simp [joinText, ih]

theorem textOfAddr_eq_intercalate (a : Addr) :
    textOfAddr a = [delimiter (octetsKind a.oct)].intercalate ((octetsList a.oct).map (renderOctet (octetsKind a.oct))) :=
  joinText_eq_intercalate _ _

theorem exec_addrToStr (a : Addr) (s : State) :
    exec (.addrToStr a) s = .next (delivered s (.text
      ([delimiter (octetsKind a.oct)].intercalate ((octetsList a.oct).map (renderOctet (octetsKind a.oct)))))) := by
  rw [exec, execAddrToStr, textOfAddr_eq_intercalate, reply_eq]

/-! ### Reading an address (R116) -/

theorem partsValue_eq_ok {kind : AddrKind} {parts : List Text} {b : Buffer} (i : Nat)
    (h : List.Forall₂ (fun part o => partValue kind part = some o) parts b) : partsValue kind i parts = .ok b := by
  induction h generalizing i with
  | nil => rfl
  | cons hpart _ ih => simp only [partsValue, hpart, ih]

/-- `N` parts that denote octets, joined by the delimiter, are read as the address of those octets. -/
theorem addrOfText_of_denotes {kind : AddrKind} {parts : List Text} {vs : List Nat}
    (hn : parts.length = octetCount kind) (h : List.Forall₂ (fun part v => Denotes kind part v ∧ v ≤ 255) parts vs) :
    addrOfText kind ([delimiter kind].intercalate parts) = .ok (addrOfBytes kind (vs.map (BitVec.ofNat 8))) := by
  have hvals : partsValue kind 0 parts = .ok (vs.map (BitVec.ofNat 8)) :=
    partsValue_eq_ok 0 <| List.forall₂_map_right_iff.2 <| h.imp fun _ v ⟨hv, hle⟩ =>
      partValue_eq_some_iff.2 ⟨v, hv, hle, rfl⟩
  have hdelim : ∀ part ∈ parts, delimiter kind ∉ part :=
    ((List.forall₂_and_left _ _).1 <| h.imp fun _ _ hp => ⟨delimiter_notMem_of_denotes hp.1, hp⟩).1
  have hne : parts ≠ [] := by rintro rfl; cases kind <;> exact nomatch hn
  simp [addrOfText, splitText_eq_splitOn, List.splitOn_intercalate _ hdelim hne, hn, hvals]

theorem exec_addrFromStr_of_ok {kind : AddrKind} {text : Text} {a : Addr} (s : State) (h : addrOfText kind text = .ok a) :
    exec (.addrFromStr kind text) s = .next (delivered s (.addr a)) := by
  simp [exec, execAddrFromStr, h]

/-! ### A rendered octet (R118) -/

theorem decimalChar_eq_digitChar {d : Nat} (h : d < 10) : decimalChar d = BitVec.ofNat 8 d.digitChar.toNat := by
  rw [decimalChar, Nat.toNat_digitChar_of_lt_ten h]

theorem hexChar_eq_digitChar : ∀ {d : Nat}, d < 16 → hexChar d = BitVec.ofNat 8 d.digitChar.toNat := by decide

theorem isDigit_decimalChar (kind : AddrKind) {d : Nat} (h : d < 10) : IsDigit kind (decimalChar d) d :=
  .inl ⟨by omega, by simp [decimalChar]; omega⟩

theorem isDigit_hexChar {d : Nat} (h : d < 16) : IsDigit .mac (hexChar d) d := by
  by_cases hd : d < 10
  · rw [hexChar, if_pos hd]; exact isDigit_decimalChar .mac hd
  · exact .inr ⟨rfl, by omega, by omega, .inl (by simp [hexChar, hd]; omega)⟩

/-- The shortest decimal numeral of an octet is the library's. -/
theorem renderOctet_ip_eq_toDigits (v : Byte) :
    renderOctet .ip v = (Nat.toDigits 10 v.toNat).map fun c => BitVec.ofNat 8 c.toNat := by
  have hv := v.isLt
  simp only [renderOctet]
  split
  · next h1 => simp [Nat.toDigits_of_lt_base h1, decimalChar_eq_digitChar h1]
  next h1 =>
    have hlow : v.toNat % 10 < 10 := Nat.mod_lt _ (by decide)
    rw [Nat.toDigits_of_base_le (by decide) (by omega)]
    split
    · next h2 =>
      have hhigh : v.toNat / 10 < 10 := by omega
      simp [Nat.toDigits_of_lt_base hhigh, decimalChar_eq_digitChar hhigh, decimalChar_eq_digitChar hlow]
    · next h2 =>
      have hmid : v.toNat / 10 % 10 < 10 := Nat.mod_lt _ (by decide)
      have hhigh : v.toNat / 10 / 10 < 10 := by omega
      rw [Nat.toDigits_of_base_le (by decide) (by omega), Nat.toDigits_of_lt_base hhigh,
        show v.toNat / 100 = v.toNat / 10 / 10 by omega]
      simp [decimalChar_eq_digitChar hhigh, decimalChar_eq_digitChar hmid, decimalChar_eq_digitChar hlow]

/-- Two hexadecimal digits, the high one first. -/
theorem renderOctet_mac_eq_digitChars (v : Byte) :
    renderOctet .mac v = [v.toNat / 16, v.toNat % 16].map fun d => BitVec.ofNat 8 d.digitChar.toNat := by
  have hv := v.isLt
  simp [renderOctet, hexChar_eq_digitChar (d := v.toNat / 16) (by omega),
    hexChar_eq_digitChar (d := v.toNat % 16) (by omega)]

/-- A rendered octet denotes the octet. -/
theorem denotes_renderOctet (kind : AddrKind) (v : Byte) : Denotes kind (renderOctet kind v) v.toNat := by
  have hv := v.isLt
  cases kind with
  | ip =>
    simp only [renderOctet]
    split
    · next h => exact ⟨by simp, [v.toNat], by simp [isDigit_decimalChar _ h], by simp⟩
    split
    · refine ⟨by simp, [v.toNat / 10, v.toNat % 10], ?_, ?_⟩
      · simp [isDigit_decimalChar _ (show v.toNat / 10 < 10 by omega),
          isDigit_decimalChar _ (show v.toNat % 10 < 10 by omega)]
      · simp [Nat.ofDigits_cons, radix]; omega
    · refine ⟨by simp, [v.toNat / 100, v.toNat / 10 % 10, v.toNat % 10], ?_, ?_⟩
      · simp [isDigit_decimalChar _ (show v.toNat / 100 < 10 by omega),
          isDigit_decimalChar _ (show v.toNat / 10 % 10 < 10 by omega),
          isDigit_decimalChar _ (show v.toNat % 10 < 10 by omega)]
      · simp [Nat.ofDigits_cons, radix]; omega
  | mac =>
    refine ⟨by simp [renderOctet], [v.toNat / 16, v.toNat % 16], ?_, ?_⟩
    · simp [renderOctet, isDigit_hexChar (d := v.toNat / 16) (by omega), isDigit_hexChar (d := v.toNat % 16) (by omega)]
    · simp [Nat.ofDigits_cons, radix]; omega

/-- What is rendered is read back as the address (R120). -/
theorem addrOfText_textOfAddr (a : Addr) : addrOfText (octetsKind a.oct) (textOfAddr a) = .ok a := by
  have hparts : List.Forall₂ (fun part v => Denotes (octetsKind a.oct) part v ∧ v ≤ 255)
      ((octetsList a.oct).map (renderOctet (octetsKind a.oct))) ((octetsList a.oct).map BitVec.toNat) := by
    simp only [List.forall₂_map_left_iff, List.forall₂_map_right_iff, List.forall₂_same]
    exact fun v _ => ⟨denotes_renderOctet _ v, Nat.le_of_lt_succ v.isLt⟩
  rw [textOfAddr_eq_intercalate, addrOfText_of_denotes (by simp) hparts]
  simp [Function.comp_def, addrOfBytes_octetsList]

end Sys2Proof.Machine
end

section
/-! PROOFS. The statements of 40_address.md. -/

namespace Sys2Proof.Proofs

open Sys2Proof Sys2Proof.Machine Sys2Proof.Safety

/-- Settles O1: both operations deliver the octets they are given. -/
theorem addrHostOrderIsUnchanged : Obligations.AddrHostOrderIsUnchanged := ⟨fun _ _ => rfl, fun _ _ => rfl⟩

/-- Settles O2: the octets delivered are those of `reverseOctets`, a reversal that keeps the kind. -/
theorem addrNetOrderIsReversed : Obligations.AddrNetOrderIsReversed :=
  ⟨fun b _ => ⟨reverseOctets b, rfl, octetsList_reverseOctets b, octetsKind_reverseOctets b⟩,
    fun a _ => ⟨reverseOctets a.oct, rfl, octetsList_reverseOctets a.oct, octetsKind_reverseOctets a.oct⟩⟩

/-- Settles O3: the address of the first operation is the one delivered, and reversing twice changes nothing. -/
theorem addrOrderPairsCompose : Obligations.AddrOrderPairsCompose := by
  refine fun b s => ⟨fun a t h hr => ?_, fun a t h hr => ?_⟩
  · cases h; cases hr
    exact ⟨reverseOctets b, rfl, rfl, octetsList_reverseOctets b⟩
  · cases h; cases hr
    refine ⟨reverseOctets b, ?_, rfl, octetsList_reverseOctets b⟩
    simp [exec, execAddrNet, delivered]

/-- Settles O5: the parts are split off again, since none holds a delimiter, and each is read as the octet it denotes. -/
theorem fromStrReadsValidParts : Obligations.FromStrReadsValidParts := by
  intro kind parts vs s hn h
  have hlen : (vs.map (BitVec.ofNat 8)).length = octetCount kind := by rw [List.length_map, ← h.length_eq, hn]
  exact ⟨_, octetsKind_addrOfBytes kind _, octetsList_addrOfBytes hlen,
    exec_addrFromStr_of_ok s (addrOfText_of_denotes hn h)⟩

/-- Settles O7: the text is the join of the rendered octets, and each is the library's numeral. -/
theorem toStrRendersOctets : Obligations.ToStrRendersOctets := by
  refine ⟨fun b s => ?_, fun b s => ?_⟩
  · rw [← funext renderOctet_ip_eq_toDigits]
    exact exec_addrToStr ⟨.ip b⟩ s
  · rw [← funext renderOctet_mac_eq_digitChars]
    exact exec_addrToStr ⟨.mac b⟩ s

/-- Settles O8: each octet's rendering denotes it, so `addrOfText_textOfAddr` reads the address back. -/
theorem fromStrInvertsToStr : Obligations.FromStrInvertsToStr := fun a s =>
  ⟨textOfAddr a, rfl, exec_addrFromStr_of_ok s (addrOfText_textOfAddr a)⟩

end Sys2Proof.Proofs
end

section
/-! PROOFS. What the resolve sequence does with each input: its request sent, a reply received, and the wait between the two
(41_arp.md R135 to R138, R252). -/

namespace Sys2Proof.Machine

open Sys2Proof Sys2Proof.Safety

/-! ### Parsing -/

theorem exec_arpParse_of_long {b : Buffer} (s : State) (h : 28 ≤ b.length) :
    exec (.arpParse b) s = .next (delivered s (.arp (arpFields b))) :=
  if_neg (Nat.not_lt.2 h)

theorem exec_arpParse_of_short {b : Buffer} (s : State) (h : b.length < 28) :
    exec (.arpParse b) s = .fault .arpShortInput :=
  if_pos h

/-- What stands beyond the bytes taken does not change a slice of them. -/
theorem slice_take {n hi : Nat} (b : Buffer) (lo : Nat) (h : hi ≤ n) : slice (b.take n) lo hi = slice b lo hi := by
  rw [slice, slice, List.drop_take, List.take_take, Nat.min_eq_left (Nat.sub_le_sub_right h lo)]

/-! ### Receiving -/

/-- With no frame available the wait goes on (R138, R252). -/
theorem arpAwaitReply_of_empty {s : State} (h : s.env.arp.rx = []) :
    arpAwaitReply s = .next { s with awaitingArp := true, response := none } := by
  rcases arpAwaitReply_cases s with ⟨-, he⟩ | ⟨_, _, hrx, -⟩ | ⟨_, _, hrx, -⟩ | ⟨_, _, hrx, -⟩
  · exact he
  all_goals exact nomatch h.symm.trans hrx

/-- A first frame of 28 bytes or more is consumed and its bytes at offset 8 are the result, with no check (R137). -/
theorem arpAwaitReply_of_frame {s : State} {payload : Buffer} {rest : List RecvEvent}
    (h : s.env.arp.rx = .frame payload :: rest) (hp : 28 ≤ payload.length) :
    ∃ r : Bytes6, bytes6List r = slice payload 8 14 ∧ arpAwaitReply s =
      .next (delivered { setArpTransport { s.env.arp with rx := rest } s with awaitingArp := false } (.octets (.mac r))) := by
  rcases arpAwaitReply_cases s with ⟨hrx, -⟩ | ⟨_, _, hrx, -⟩ | ⟨_, _, hrx, hlt, -⟩ | ⟨_, _, hrx, -, he⟩ <;>
    cases h.symm.trans hrx
  · exact absurd hp (Nat.not_le.2 hlt)
  · obtain ⟨-, -, -, -, -, hsha, -⟩ := arpFields_bytes (b := payload.take 28) (by simp [hp])
    exact ⟨_, hsha.symm.trans (slice_take payload 8 (by decide)), he⟩

/-! ### Sending -/

/-- The state after an accepted `send` of the request: one broadcast of its 28 bytes is logged, and the oracle's answer is used
up (R135, R136). -/
def requestSent (remoteIp : Bytes4) (localMac : Bytes6) (localIp : Bytes4) (iface : Text) (s : State) : State :=
  setArpTransport { s.env.arp with
    txAnswers := s.env.arp.txAnswers.tail
    sent := s.env.arp.sent ++ [⟨iface, macBroadcast, requestBytes localMac localIp remoteIp⟩] } s

/-- The layout of `ARP.MKREQ`'s message is its 28 bytes written out (R71, R135). -/
theorem arpLayout_arpRequest (localMac : Bytes6) (localIp remoteIp : Bytes4) :
    arpLayout (arpRequest localMac localIp remoteIp) = requestBytes localMac localIp remoteIp := by
  have hhtype : put16 Config.arpHtype = [0, 1] := by decide
  have hptype : put16 Config.arpPtype = [8, 0] := by decide
  have hoper : put16 Config.arpOpRequest = [0, 1] := by decide
  simp only [arpLayout, arpRequest, hhtype, hptype, hoper]
  rfl

/-- When `send` is accepted, what is left of `ARP.RESOLVE` is its receive (R136). -/
theorem exec_arpResolve_of_accepted {s : State} (remoteIp : Bytes4) (localMac : Bytes6) (localIp : Bytes4) (iface : Text)
    (h : s.env.arp.txAnswers.head?.join = none) :
    exec (.arpResolve remoteIp localMac localIp iface) s =
      arpAwaitReply (requestSent remoteIp localMac localIp iface s) := by
  rcases exec_arpResolve_cases remoteIp localMac localIp iface s with ⟨_, _, htx, -⟩ | ⟨-, he⟩
  · rw [htx] at h; exact nomatch h
  · rwa [arpLayout_arpRequest] at he

/-! ### Waiting -/

theorem step_of_waiting {s : State} (h : s.awaitingArp = true) : step s = arpAwaitReply s := if_pos h

/-- A wait in progress with no frame available is a step that changes nothing (log entry 2). -/
theorem step_of_waiting_empty {s : State} (ha : s.awaitingArp = true) (hr : s.response = none)
    (h : s.env.arp.rx = []) : step s = .next s := by
  rw [step_of_waiting ha, arpAwaitReply_of_empty h, ← ha, ← hr]

/-- The first frame to arrive ends the wait, and apart from the result the state is that of the wait (R138, R252). -/
theorem step_arpArrival_of_waiting {s : State} {payload : Buffer} (ha : s.awaitingArp = true) (h : s.env.arp.rx = [])
    (hp : 28 ≤ payload.length) : ∃ r : Bytes6, bytes6List r = slice payload 8 14 ∧
      step (arpArrival (.frame payload) s) = .next (delivered { s with awaitingArp := false } (.octets (.mac r))) := by
  have hrx : (arpArrival (.frame payload) s).env.arp.rx = [.frame payload] := by rw [arpArrival_rx, h, List.nil_append]
  obtain ⟨r, hr, he⟩ := arpAwaitReply_of_frame hrx hp
  refine ⟨r, hr, ?_⟩
  rw [step_of_waiting ((arpArrival_awaitingArp _ s).trans ha), he, ← h]
  rfl

/-- A state that steps to itself is where every run from it ends, on any machine. -/
theorem run_of_step_self (M : Host.Core) {s : M.State} (h : M.step s = .next s) (k : Nat) : M.run k s = .next s := by
  induction k with
  | zero => rfl
  | succ k ih => rw [run_succ_next M k h, ih]

/-- A wait that gets no frame outlasts any number of steps: no timeout ends it (R138, R252). -/
theorem run_of_waiting_empty {s : State} (ha : s.awaitingArp = true) (hr : s.response = none) (h : s.env.arp.rx = [])
    (k : Nat) : Host.Core.run core k s = .next s :=
  run_of_step_self core (s := s) (step_of_waiting_empty ha hr h) k

end Sys2Proof.Machine
end

section
/-! PROOFS. The statements of 41_arp.md. -/

namespace Sys2Proof.Proofs

open Sys2Proof Sys2Proof.Machine Sys2Proof.Safety

/-- Settles O9: the record delivered is that of the nine operands. -/
theorem arpNewTakesOperands : Obligations.ArpNewTakesOperands := fun _ _ _ _ _ _ _ _ _ _ =>
  ⟨_, rfl, rfl, rfl, rfl, rfl, rfl, rfl, rfl, rfl, rfl⟩

/-- Settles O11: the two length cases of the operation, and `arpFields_bytes` for the offsets. -/
theorem arpParseReadsOffsets : Obligations.ArpParseReadsOffsets := by
  refine ⟨fun b s h => ⟨arpFields b, exec_arpParse_of_long s h, ?_⟩, fun b s h => exec_arpParse_of_short s h⟩
  obtain ⟨hhtype, hptype, hhlen, hplen, hoper, hsha, hspa, htha, htpa⟩ := arpFields_bytes h
  exact ⟨hhtype.symm, hptype.symm, hhlen.symm, hplen.symm, hoper.symm, hsha.symm, hspa.symm, htha.symm, htpa.symm⟩

/-- Settles O12: the layout is read back as its message, and the fields are written back as the bytes they were read from. -/
theorem arpCodecRoundTrips : Obligations.ArpCodecRoundTrips := by
  refine ⟨fun m s => ⟨arpLayout m, rfl, ?_⟩, fun b s h => ⟨arpFields b, exec_arpParse_of_long s h, ?_⟩⟩
  · have hm : arpFields (arpLayout m) = m := by simpa using arpFields_layout m []
    have he := exec_arpParse_of_long s (arpLayout_length m).ge
    rwa [hm] at he
  · rw [← arpLayout_fields b h]; rfl

/-- Settles O13, field by field. -/
theorem arpGetReturnsFields : Obligations.ArpGetReturnsFields := fun _ f _ => by cases f <;> rfl

/-- Settles O14: the model's parameters are the numbers of the statement. -/
theorem arpMkreqBuildsRequest : Obligations.ArpMkreqBuildsRequest := fun _ _ _ _ => rfl

/-- Settles O16: the request is sent, and the frame that is already there is received from the state after the `send`. -/
theorem resolveSendsOnceReceivesOnce : Obligations.ResolveSendsOnceReceivesOnce := by
  intro remoteIp localMac localIp iface payload rest s htx hrx hp
  obtain ⟨r, hr, he⟩ := arpAwaitReply_of_frame (s := requestSent remoteIp localMac localIp iface s) hrx hp
  exact ⟨r, hr, (exec_arpResolve_of_accepted remoteIp localMac localIp iface htx).trans he⟩

/-- Settles O15: the result is part of the whole effect that `resolveSendsOnceReceivesOnce` gives. -/
theorem resolveAcceptsFirstFrame : Obligations.ResolveAcceptsFirstFrame := by
  intro remoteIp localMac localIp iface payload rest s htx hrx hp
  obtain ⟨r, hr, he⟩ := resolveSendsOnceReceivesOnce remoteIp localMac localIp iface payload rest s htx hrx hp
  exact ⟨_, r, he, rfl, hr⟩

/-- Settles O17: the state of the wait is where every run from it ends (`run_of_waiting_empty`), until a frame arrives. -/
theorem resolveWaitsWithoutBound : Obligations.ResolveWaitsWithoutBound := by
  intro remoteIp localMac localIp iface s htx hrx
  refine ⟨_, ?_, rfl, run_of_waiting_empty rfl rfl rfl, fun payload hp => step_arpArrival_of_waiting rfl rfl hp⟩
  have hsent : (requestSent remoteIp localMac localIp iface s).env.arp.rx = [] := hrx
  rw [exec_arpResolve_of_accepted remoteIp localMac localIp iface htx, arpAwaitReply_of_empty hsent, ← hrx]
  rfl

end Sys2Proof.Proofs
end

section
/-! PROOFS. The checksum as a function of the word sum, and the word sum as a function of the words (42_ipv4.md R150 to R152). -/

namespace Sys2Proof.Machine

open Sys2Proof Sys2Proof.Safety

/-! ### The word sum -/

/-- A word's bytes off the front of a buffer. -/
theorem memRead_cons_cons (x y : Byte) (b : Buffer) (off n : Nat) :
    memRead (x :: y :: b) (off + 2) n = memRead b off n := by
  induction n generalizing off with
  | zero => rfl
  | succ n ih => simp only [memRead, byteAt, List.getD_cons_succ, ← ih (off + 1)]

/-- The recursion of the word sum adds the words that the spec indexes (R150). -/
theorem indexedWordSum_eq_wordSum : ∀ b : Buffer, indexedWordSum b = wordSum b
  | [] => rfl
  | [x] => by simp [indexedWordSum, memRead, byteAt, wordSum]
  | x :: y :: r => by
    have hlen : ((x :: y :: r).length + 1) / 2 = (r.length + 1) / 2 + 1 := by simp only [List.length_cons]; omega
    have hword : memRead (x :: y :: r) 0 2 = x.toNat * 256 + y.toNat := memRead_two _ 0
    have hrest (k : Nat) : memRead (x :: y :: r) (2 * (k + 1)) 2 = memRead r (2 * k) 2 := memRead_cons_cons x y r (2 * k) 2
    have ih := indexedWordSum_eq_wordSum r
    simp only [indexedWordSum] at ih
    simp only [indexedWordSum, hlen, List.range_succ_eq_map, List.map_cons, List.map_map, Function.comp_def,
      Nat.succ_eq_add_one, hrest, List.sum_cons, Nat.mul_zero, hword, ih, wordSum]

/-- A word in front adds its value. -/
theorem wordSum_word_append (x y : Byte) (q : Buffer) :
    wordSum ([x, y] ++ q) = x.toNat * 256 + y.toNat + wordSum q := rfl

/-- A zero byte after an odd last byte completes its word and adds nothing (R55). -/
theorem wordSum_append_zero : ∀ {b : Buffer}, b.length % 2 = 1 → wordSum (b ++ [0]) = wordSum b
  | [x], _ => by simp [wordSum]
  | x :: y :: r, h => by
    have ih := wordSum_append_zero (b := r) (by simp only [List.length_cons] at h; omega)
    simp only [List.cons_append, wordSum, ih]

/-- Changing one byte changes its word's part of the sum: 256 for the high byte of a word, 1 for the low byte (R53). -/
theorem wordSum_set (x : Byte) : ∀ (b : Buffer) (i : Nat), i < b.length →
    wordSum (b.set i x) + 256 ^ ((i + 1) % 2) * (byteAt b i).toNat = wordSum b + 256 ^ ((i + 1) % 2) * x.toNat
  | [_], 0, _ => by simp [wordSum, byteAt]; omega
  | _ :: _ :: _, 0, _ => by simp [wordSum, byteAt]; omega
  | _ :: _ :: _, 1, _ => by simp [wordSum, byteAt]; omega
  | y :: z :: r, i + 2, h => by
    have ih := wordSum_set x r i (by simp only [List.length_cons] at h; omega)
    have hbyte : byteAt (y :: z :: r) (i + 2) = byteAt r i := rfl
    have hpar : (i + 2 + 1) % 2 = (i + 1) % 2 := by omega
    simp only [List.set_cons_succ, wordSum, hbyte, hpar]
    omega

theorem bigEndian_two (v : U16) : bigEndian v.toNat 2 = put16 v := by
  have hhigh : BitVec.ofNat 8 (v.toNat / 256) = v.extractLsb' 8 8 := BitVec.eq_of_toNat_eq (extract_toNat v 8 8).symm
  have hlow : BitVec.ofNat 8 v.toNat = v.extractLsb' 0 8 := BitVec.eq_of_toNat_eq (by simp)
  simp only [bigEndian, put16, Nat.pow_one, Nat.pow_zero, Nat.div_one, hhigh, hlow]

@[simp] theorem memWrite_two_length {b : Buffer} {off : Nat} (v : Nat) (h : off + 2 ≤ b.length) :
    (memWrite b off 2 v).length = b.length := by
  simp only [memWrite, bigEndian, List.length_append, List.length_take, List.length_cons, List.length_nil, List.length_drop]
  omega

/-- Writing a word at an even offset changes the sum by the new word less the old one. -/
theorem wordSum_memWrite {b : Buffer} {off : Nat} (v : U16) (he : off % 2 = 0) (h : off + 2 ≤ b.length) :
    wordSum (memWrite b off 2 v.toNat) + memRead b off 2 = wordSum b + v.toNat := by
  have htake : (b.take off).length % 2 = 0 := by simp only [List.length_take]; omega
  have hdrop : b.drop off = [byteAt b off, byteAt b (off + 1)] ++ b.drop (off + 2) := by
    rw [List.drop_eq_getElem_cons (by omega), List.drop_eq_getElem_cons (by omega)]
    simp [byteAt, List.getD_eq_getElem?_getD, show off < b.length by omega, show off + 1 < b.length by omega]
  have hword (q : Buffer) : wordSum (put16 v ++ q) = v.toNat + wordSum q := by
    rw [← memRead_put16 v [], memRead_two]
    rfl
  have hb : wordSum b = wordSum (b.take off) + memRead b off 2 + wordSum (b.drop (off + 2)) := by
    conv_lhs => rw [← List.take_append_drop off b, hdrop]
    rw [wordSum_append_even _ _ htake, wordSum_word_append, memRead_two]
    omega
  rw [memWrite, bigEndian_two, List.append_assoc, wordSum_append_even _ _ htake, hword, hb]
  omega

/-! ### Folding -/

/-- Two folds reduce a sum below 2^32 modulo 0xFFFF, with 0xFFFF for a non-zero multiple (R152 (d)). -/
theorem fold16_fold16 {n : Nat} (h : n < 2 ^ 32) : fold16 (fold16 n) = foldedSum n := by
  unfold fold16 foldedSum
  split <;> omega

theorem foldedSum_le (n : Nat) : foldedSum n ≤ 65535 := by
  unfold foldedSum
  split <;> omega

theorem wordSum_lt {b : Buffer} (h : b.length < 131072) : wordSum b < 2 ^ 32 := by
  have := wordSum_le b
  omega

/-- The checksum's value, for every buffer it has a meaning for (R152 (d)). -/
theorem checksum_toNat {b : Buffer} (h : b.length < 131072) : (checksum b).toNat = 0xFFFF - foldedSum (wordSum b) := by
  have := foldedSum_le (wordSum b)
  rw [checksum, fold16_fold16 (wordSum_lt h), BitVec.toNat_ofNat]
  omega

/-- Sums that fold to the same number are congruent modulo 0xFFFF. -/
theorem mod_eq_of_foldedSum_eq {m n : Nat} (h : foldedSum m = foldedSum n) : m % 65535 = n % 65535 := by
  unfold foldedSum at h
  split at h <;> split at h <;> omega

/-- A sum plus the complement of its folded form is a non-zero multiple of 0xFFFF (R152 (a)). -/
theorem foldedSum_add_complement (n : Nat) : foldedSum (n + (65535 - foldedSum n)) = 65535 := by
  unfold foldedSum
  split <;> split <;> omega

/-! ### The operation -/

theorem exec_cksum16_of_short {b : Buffer} (s : State) (h : b.length < 131072) :
    exec (.cksum16 b) s = .next (delivered s (.u16 (checksum b))) :=
  if_neg (Nat.not_le.2 h)

theorem exec_cksum16_of_long {b : Buffer} (s : State) (h : 131072 ≤ b.length) :
    exec (.cksum16 b) s = .refused .cksumBufferTooLong :=
  if_pos h

/-- The result that `CKSUM16` delivers is the checksum. -/
theorem eq_checksum_of_exec_cksum16 {b : Buffer} {s : State} {c : U16} (h : b.length < 131072)
    (he : exec (.cksum16 b) s = .next { s with response := some (.ok (.u16 c)) }) : c = checksum b := by
  cases (exec_cksum16_of_short s h).symm.trans he
  rfl

/-- `CKSUM16` depends on its buffer by the word sum and by which side of the limit the length is on. -/
theorem exec_cksum16_congr {b b' : Buffer} (s : State) (hl : b.length < 131072 ↔ b'.length < 131072)
    (hw : wordSum b = wordSum b') : exec (.cksum16 b) s = exec (.cksum16 b') s := by
  by_cases h : b.length < 131072
  · rw [exec_cksum16_of_short s h, exec_cksum16_of_short s (hl.1 h), checksum, checksum, hw]
  · rw [exec_cksum16_of_long s (Nat.not_lt.1 h), exec_cksum16_of_long s (Nat.not_lt.1 (mt hl.2 h))]

/-- With the checksum written over a word that was zero, the checksum is zero (R152 (a)). -/
theorem checksum_memWrite_checksum {b : Buffer} {off : Nat} (hlen : b.length < 131072) (he : off % 2 = 0)
    (h : off + 2 ≤ b.length) (hz : memRead b off 2 = 0) : checksum (memWrite b off 2 (checksum b).toNat) = 0 := by
  have hsum := wordSum_memWrite (checksum b) he h
  rw [hz, Nat.add_zero, checksum_toNat hlen] at hsum
  apply BitVec.eq_of_toNat_eq
  rw [checksum_toNat ((memWrite_two_length _ h).trans_lt hlen), checksum_toNat hlen, hsum, foldedSum_add_complement]
  rfl

/-- Another value in one byte gives another checksum: the sums differ by less than 0xFFFF (R159). -/
theorem checksum_set_ne {b : Buffer} {i : Nat} {x : Byte} (hlen : b.length < 131072) (hi : i < b.length)
    (hx : x ≠ byteAt b i) : checksum b ≠ checksum (b.set i x) := by
  intro heq
  have hfold : foldedSum (wordSum b) = foldedSum (wordSum (b.set i x)) := by
    have hc := congrArg BitVec.toNat heq
    rw [checksum_toNat hlen, checksum_toNat (by rwa [List.length_set])] at hc
    have := foldedSum_le (wordSum b)
    have := foldedSum_le (wordSum (b.set i x))
    omega
  have hmod := mod_eq_of_foldedSum_eq hfold
  have hset := wordSum_set x b i hi
  have hne : x.toNat ≠ (byteAt b i).toNat := mt BitVec.eq_of_toNat_eq hx
  have hlt := x.isLt
  have hlt' := (byteAt b i).isLt
  rcases Nat.mod_two_eq_zero_or_one (i + 1) with hpar | hpar <;> rw [hpar] at hset <;> omega

end Sys2Proof.Machine
end

section
/-! PROOFS. The IPv4 header's fields as bytes, and what the packet operations do in each case (42_ipv4.md R153 to R158). -/

namespace Sys2Proof.Machine

open Sys2Proof Sys2Proof.Safety

/-- Every field of the header in a buffer, by the bytes at its offset (R72, R73). -/
theorem ipHdrFields_bytes {b : Buffer} (h : 20 ≤ b.length) :
    memRead b 0 1 = (ipHdrFields b).version.toNat * 16 + (ipHdrFields b).ihl.toNat ∧
    memRead b 1 1 = (ipHdrFields b).tos.toNat ∧ memRead b 2 2 = (ipHdrFields b).totLen.toNat ∧
    memRead b 4 2 = (ipHdrFields b).id.toNat ∧ memRead b 6 2 = (ipHdrFields b).frag.toNat ∧
    memRead b 8 1 = (ipHdrFields b).ttl.toNat ∧ memRead b 9 1 = (ipHdrFields b).protocol.toNat ∧
    memRead b 10 2 = (ipHdrFields b).check.toNat ∧
    slice b 12 16 = bytes4List (ipHdrFields b).saddr ∧ slice b 16 20 = bytes4List (ipHdrFields b).daddr := by
  have hfirst : memRead b 0 1 = (ipHdrFields b).version.toNat * 16 + (ipHdrFields b).ihl.toNat := by
    rw [memRead_one, ← join4 (byteAt b 0), append_toNat]
    rfl
  exact ⟨hfirst, memRead_one b 1, (be16_toNat b 2).symm, (be16_toNat b 4).symm, (be16_toNat b 6).symm, memRead_one b 8,
    memRead_one b 9, (be16_toNat b 10).symm, (bytes4List_at b 12 (by omega)).symm, (bytes4List_at b 16 h).symm⟩

/-! ### Building -/

theorem exec_ipBuild_of_fits {body : Buffer} (protocol : Byte) (srcIp dstIp : Bytes4) (s : State)
    (h : body.length ≤ 65515) : exec (.ipBuild protocol srcIp dstIp body) s =
      .next (delivered s (.ip (ipPacketOf Config.ipIdSentinel protocol srcIp dstIp body))) :=
  if_neg (mt (ipTooLong_iff body).1 (Nat.not_lt.2 h))

theorem exec_ipBuild_of_too_long {body : Buffer} (protocol : Byte) (srcIp dstIp : Bytes4) (s : State)
    (h : 65515 < body.length) : exec (.ipBuild protocol srcIp dstIp body) s = .refused .ipBodyTooLong :=
  if_pos ((ipTooLong_iff body).2 h)

/-- The only packet `IP.BUILD` delivers is `ipPacketOf`. -/
theorem eq_ipPacketOf_of_exec_ipBuild {protocol : Byte} {srcIp dstIp : Bytes4} {body : Buffer} {p : IpPkt} {s : State}
    (he : exec (.ipBuild protocol srcIp dstIp body) s = .next { s with response := some (.ok (.ip p)) }) :
    p = ipPacketOf Config.ipIdSentinel protocol srcIp dstIp body := by
  rcases Nat.lt_or_ge 65515 body.length with h | h
  · cases (exec_ipBuild_of_too_long protocol srcIp dstIp s h).symm.trans he
  · cases (exec_ipBuild_of_fits protocol srcIp dstIp s h).symm.trans he
    rfl

/-- The total length of a built packet does not wrap when the body fits (R153). -/
theorem ipPacketOf_totLen {body : Buffer} (id : U16) (protocol : Byte) (srcIp dstIp : Bytes4) (h : body.length ≤ 65515) :
    (ipPacketOf id protocol srcIp dstIp body).totLen.toNat = 20 + body.length :=
  Nat.mod_eq_of_lt (by simp only [Config.ipHdrLen]; omega)

/-- The checksum of a built packet is that of its header with the checksum field zero (R159). -/
theorem exec_cksum16_of_ipPacketOf (id : U16) (protocol : Byte) (srcIp dstIp : Bytes4) (body : Buffer) (s : State) :
    exec (.cksum16 (ipHdrLayout { (ipPacketOf id protocol srcIp dstIp body).toIpHdr with check := 0 })) s =
      .next (delivered s (.u16 (ipPacketOf id protocol srcIp dstIp body).check)) :=
  exec_cksum16_of_short s (by rw [ipHdrLayout_length]; decide)

/-! ### Parsing -/

section parse
variable {b : Buffer} (s : State)

/-- With a total length that the header covers, the body is empty (R154). -/
theorem exec_ipParse_of_no_body (h : 20 ≤ b.length) (hb : (ipHdrFields b).totLen.toNat ≤ (ipHdrFields b).ihl.toNat * 4) :
    exec (.ipParse b) s = .next (delivered s (.ip { toIpHdr := ipHdrFields b, body := [] })) :=
  (if_neg (Nat.not_lt.2 h)).trans (if_pos (by omega))

/-- With a body that lies inside the buffer, the body is that slice (R154). -/
theorem exec_ipParse_of_body (h : 20 ≤ b.length) (hb : (ipHdrFields b).ihl.toNat * 4 < (ipHdrFields b).totLen.toNat)
    (hin : (ipHdrFields b).totLen.toNat ≤ b.length) :
    exec (.ipParse b) s = .next (delivered s (.ip
      { toIpHdr := ipHdrFields b, body := slice b ((ipHdrFields b).ihl.toNat * 4) (ipHdrFields b).totLen.toNat })) :=
  (if_neg (Nat.not_lt.2 h)).trans ((if_neg (by omega)).trans (if_neg (Nat.not_lt.2 hin)))

/-- With a body that runs past the buffer the model stops (R154, D17). -/
theorem exec_ipParse_of_body_past_end (h : 20 ≤ b.length)
    (hb : (ipHdrFields b).ihl.toNat * 4 < (ipHdrFields b).totLen.toNat)
    (hout : b.length < (ipHdrFields b).totLen.toNat) : exec (.ipParse b) s = .fault .ipBodyOutOfRange :=
  (if_neg (Nat.not_lt.2 h)).trans ((if_neg (by omega)).trans (if_pos hout))

end parse

/-- Parsing what was marshalled gives the record back when its length fields are those of its bytes (R158). -/
theorem exec_ipParse_ipBytes {p : IpPkt} (s : State) (hihl : p.ihl = 5) (htot : p.totLen.toNat = 20 + p.body.length) :
    exec (.ipParse (ipBytes p)) s = .next (delivered s (.ip p)) := by
  have hfields : ipHdrFields (ipBytes p) = p.toIpHdr := ipHdrFields_layout p.toIpHdr p.body
  have hlen : (ipBytes p).length = 20 + p.body.length := by rw [ipBytes, List.length_append, ipHdrLayout_length]
  have hhl : p.ihl.toNat * 4 = 20 := by rw [hihl]; rfl
  rcases Nat.eq_zero_or_pos p.body.length with hbody | hbody
  · rw [exec_ipParse_of_no_body s (by omega) (by rw [hfields]; omega), hfields, ← List.eq_nil_of_length_eq_zero hbody]
  · have hslice : slice (ipBytes p) 20 (20 + p.body.length) = p.body := by
      rw [slice, ipBytes, List.drop_left' (ipHdrLayout_length _), Nat.add_sub_cancel_left, List.take_length]
    rw [exec_ipParse_of_body s (by omega) (by rw [hfields]; omega) (by rw [hfields]; omega), hfields, hhl, htot, hslice]

end Sys2Proof.Machine
end

section
/-! PROOFS. The statements of 42_ipv4.md. -/

namespace Sys2Proof.Proofs

open Sys2Proof Sys2Proof.Machine Sys2Proof.Safety

/-- Settles O19: `checksum_toNat`, with the spec's indexed sum for the machine's. -/
theorem checksumIsComplementOfFoldedSum : Obligations.ChecksumIsComplementOfFoldedSum :=
  ⟨fun b s h => ⟨checksum b, exec_cksum16_of_short s h, by rw [checksum_toNat h, indexedWordSum_eq_wordSum]⟩,
    fun _ s h => exec_cksum16_of_long s h⟩

/-- Settles O20, by `checksum_memWrite_checksum`. -/
theorem checksumWrittenBackVerifies : Obligations.ChecksumWrittenBackVerifies := by
  intro b off c s hlen hoff hz he
  have hshort : (memWrite b (2 * off) 2 c.toNat).length < 131072 := (memWrite_two_length _ hoff).trans_lt hlen
  rw [exec_cksum16_of_short s hshort, eq_checksum_of_exec_cksum16 hlen he,
    checksum_memWrite_checksum hlen (Nat.mul_mod_right 2 off) hoff hz]
  rfl

/-- Settles O21: each pair of buffers has the same word sum (`exec_cksum16_congr`). -/
theorem checksumIgnoresWordOrderAndZeroPadding : Obligations.ChecksumIgnoresWordOrderAndZeroPadding := by
  refine ⟨fun p q r x y z w s hp hq => ?_, fun b s he hl => ?_, fun b s ho hl => ?_⟩
  · have hsum (x y z w : Byte) : wordSum (p ++ [x, y] ++ q ++ [z, w] ++ r) =
        wordSum p + (x.toNat * 256 + y.toNat) + wordSum q + (z.toNat * 256 + w.toNat) + wordSum r := by
      rw [List.append_assoc, List.append_assoc, List.append_assoc, wordSum_append_even p _ hp, wordSum_word_append,
        wordSum_append_even q _ hq, wordSum_word_append]
      omega
    exact exec_cksum16_congr s (by simp) (by rw [hsum, hsum]; omega)
  · refine exec_cksum16_congr s (by simp; omega) ?_
    rw [wordSum_append_even b _ he]
    rfl
  · exact exec_cksum16_congr s (by simp; omega) (wordSum_append_zero ho)

/-- Settles O23: the fields are `ipHdrFields_bytes`, and the three cases of the body are those of the operation. -/
theorem ipParseReadsHeaderAndBody : Obligations.IpParseReadsHeaderAndBody := by
  intro b s h
  obtain ⟨hfirst, htos, htot, hid, hfrag, httl, hproto, hcheck, hsrc, hdst⟩ := ipHdrFields_bytes h
  have hihl := (ipHdrFields b).ihl.isLt
  refine ⟨ipHdrFields b, by omega, by omega, htos.symm, htot.symm, hid.symm, hfrag.symm, httl.symm, hproto.symm,
    hcheck.symm, hsrc.symm, hdst.symm, exec_ipParse_of_no_body s h, fun hb hin => ?_,
    exec_ipParse_of_body_past_end s h⟩
  rw [exec_ipParse_of_body s h hb hin, slice, ← List.drop_take]
  rfl

/-- Settles O26: built packets meet the condition of `exec_ipParse_ipBytes`, and a record whose total length leaves out its body
loses the body. -/
theorem ipParseInvertsMarshal : Obligations.IpParseInvertsMarshal := by
  refine ⟨fun protocol srcIp dstIp body s h => ?_, fun p b s hihl htot he => ?_, ?_⟩
  · exact ⟨_, _, exec_ipBuild_of_fits protocol srcIp dstIp s h, rfl,
      exec_ipParse_ipBytes s rfl (ipPacketOf_totLen _ protocol srcIp dstIp h)⟩
  · have hb : exec (.ipMarshal p) s = .next (delivered s (.buffer (ipBytes p))) := rfl
    cases hb.symm.trans he
    exact exec_ipParse_ipBytes s hihl htot
  · refine ⟨⟨⟨4, 5, 0, 20, 0, 0, 32, 6, 0, ⟨0, 0, 0, 0⟩, ⟨0, 0, 0, 0⟩⟩, [7]⟩, _, State.reset, rfl, ?_⟩
    rw [exec_ipParse_of_no_body _ (by decide) (by decide)]
    exact fun he => nomatch he

/-- Settles O27, by `exec_cksum16_of_ipPacketOf` and `checksum_set_ne`. -/
theorem ipChecksumDetectsAnyByteChange : Obligations.IpChecksumDetectsAnyByteChange := by
  refine ⟨fun protocol srcIp dstIp body p s he => ?_, fun h i x c d s hlen _ hi _ _ hx hc hd => ?_⟩
  · rw [eq_ipPacketOf_of_exec_ipBuild he]
    exact exec_cksum16_of_ipPacketOf _ protocol srcIp dstIp body s
  · have hshort : h.length < 131072 := by omega
    rw [eq_checksum_of_exec_cksum16 hshort hc, eq_checksum_of_exec_cksum16 (by rwa [List.length_set]) hd]
    exact checksum_set_ne hshort (by omega) hx

/-- Settles O22: the packet is `ipPacketOf`, and the layout row's bytes are those its checksum was computed over. -/
theorem ipBuildFillsHeader : Obligations.IpBuildFillsHeader := by
  refine ⟨fun protocol srcIp dstIp body s h => ⟨_, exec_ipBuild_of_fits protocol srcIp dstIp s h, rfl, rfl, rfl,
    ipPacketOf_totLen _ protocol srcIp dstIp h, rfl, rfl, rfl, rfl, rfl, rfl, rfl, fun hdr he => ?_⟩,
    fun protocol srcIp dstIp body s h => exec_ipBuild_of_too_long protocol srcIp dstIp s h⟩
  cases he
  exact exec_cksum16_of_ipPacketOf _ protocol srcIp dstIp body s

/-- Settles O25: the layout's bytes are those of the header read back from it, which is the record's. -/
theorem ipMarshalWritesLayout : Obligations.IpMarshalWritesLayout := by
  intro p s
  have hp : ipHdrFields (ipHdrLayout p.toIpHdr) = p.toIpHdr := by simpa using ipHdrFields_layout p.toIpHdr []
  have hb := ipHdrFields_bytes (ipHdrLayout_length p.toIpHdr).ge
  rw [hp] at hb
  exact ⟨ipHdrLayout p.toIpHdr, rfl, rfl, ipHdrLayout_length p.toIpHdr, hb⟩

/-- Settles O28, field by field. -/
theorem ipGetReturnsFields : Obligations.IpGetReturnsFields := fun _ f _ => by cases f <;> rfl

end Sys2Proof.Proofs
end

section
/-! PROOFS. The TCP header's fields as bytes, a segment's bytes under the pseudo-header, and what the segment operations do in
each case (43_tcp.md R181 to R192). -/

namespace Sys2Proof.Machine

open Sys2Proof Sys2Proof.Safety

/-! ### The control bytes as numbers (R75 to R77) -/

/-- A flag below the other bits. -/
theorem append_ofBool_toNat {n : Nat} (x : BitVec n) (f : Bool) : (x ++ BitVec.ofBool f).toNat = x.toNat * 2 + f.toNat := by
  rw [append_toNat, BitVec.toNat_ofBool, Nat.pow_one]

theorem ctrlByte12_toNat (doff : BitVec 4) (rsv : BitVec 3) (f : Flags) :
    (ctrlByte12 doff rsv f).toNat = doff.toNat * 16 + rsv.toNat * 2 + f.ns.toNat := by
  rw [ctrlByte12, append_ofBool_toNat, append_toNat]
  omega

theorem ctrlByte13_toNat (f : Flags) : (ctrlByte13 f).toNat =
    f.cwr.toNat * 0x80 + f.ece.toNat * 0x40 + f.urg.toNat * 0x20 + f.ack.toNat * 0x10 + f.psh.toNat * 0x08 +
      f.rst.toNat * 0x04 + f.syn.toNat * 0x02 + f.fin.toNat * 0x01 := by
  simp only [ctrlByte13, append_ofBool_toNat, BitVec.toNat_ofBool]
  omega

theorem doffOf_toNat (x : Byte) : (doffOf x).toNat = x.toNat / 16 := by
  have := x.isLt
  rw [doffOf, extract_toNat]
  omega

theorem rsvOf_toNat (x : Byte) : (rsvOf x).toNat = x.toNat / 2 % 8 := extract_toNat x 1 3

/-! ### The header's fields as bytes (R74) -/

/-- The integer fields of the header in a buffer, by the bytes at their offsets. -/
theorem tcpHdrFields_bytes (b : Buffer) :
    memRead b 0 2 = (tcpHdrFields b).sport.toNat ∧ memRead b 2 2 = (tcpHdrFields b).dport.toNat ∧
    memRead b 4 4 = (tcpHdrFields b).seq.toNat ∧ memRead b 8 4 = (tcpHdrFields b).ackSeq.toNat ∧
    memRead b 14 2 = (tcpHdrFields b).window.toNat ∧ memRead b 16 2 = (tcpHdrFields b).check.toNat ∧
    memRead b 18 2 = (tcpHdrFields b).urgPtr.toNat :=
  ⟨(be16_toNat b 0).symm, (be16_toNat b 2).symm, (be32_toNat b 4).symm, (be32_toNat b 8).symm, (be16_toNat b 14).symm,
    (be16_toNat b 16).symm, (be16_toNat b 18).symm⟩

/-- The header fields lie in the first 20 bytes. -/
theorem tcpHdrFields_append {b : Buffer} (rest : Buffer) (h : 20 ≤ b.length) :
    tcpHdrFields (b ++ rest) = tcpHdrFields b := by
  have hb : b ++ rest = tcpHdrLayout (tcpHdrFields b) ++ (b.drop 20 ++ rest) := by
    rw [tcpHdrLayout_fields b h, ← List.append_assoc, List.take_append_drop]
  rw [hb, tcpHdrFields_layout]

theorem tcpHdrFields_tcpBytes (g : TcpSeg) : tcpHdrFields (tcpBytes g) = g.toTcpHdr := by
  rw [tcpBytes, List.append_assoc, tcpHdrFields_layout]

@[simp] theorem tcpBytes_length (g : TcpSeg) : (tcpBytes g).length = 20 + g.options.length + g.body.length := by
  simp only [tcpBytes, List.length_append, tcpHdrLayout_length]

/-! ### A segment under its pseudo-header (R184, R185): the checksum field is the word at offset 28 -/

section checksummed
variable (srcIp dstIp : Bytes4) (len : U16) (g : TcpSeg)

theorem memRead_tcpBytes_check : memRead (pseudoHeader srcIp dstIp len ++ tcpBytes g) 28 2 = g.check.toNat := by
  rw [← be16_toNat]
  exact congrArg BitVec.toNat (join16 g.check)

theorem pseudoHeader_tcpBytes_with_check (c : U16) : pseudoHeader srcIp dstIp len ++ tcpBytes { g with check := c } =
    memWrite (pseudoHeader srcIp dstIp len ++ tcpBytes g) 28 2 c.toNat := by
  rw [memWrite, bigEndian_two]
  rfl

/-- The checksum's buffer for a segment that fits is in the domain of `CKSUM16`. -/
theorem pseudoHeader_tcpBytes_short (h : g.options.length + g.body.length ≤ 65515) :
    (pseudoHeader srcIp dstIp len ++ tcpBytes g).length < 131072 := by
  rw [List.length_append, pseudoHeader_length, tcpBytes_length]
  omega

/-- A segment with its checksum written into the zero field verifies (R185). -/
theorem checksum_of_checksummed (hz : g.check = 0) (h : g.options.length + g.body.length ≤ 65515) :
    checksum (pseudoHeader srcIp dstIp len ++
      tcpBytes { g with check := checksum (pseudoHeader srcIp dstIp len ++ tcpBytes g) }) = 0 := by
  rw [pseudoHeader_tcpBytes_with_check]
  refine checksum_memWrite_checksum (pseudoHeader_tcpBytes_short srcIp dstIp len g h) rfl ?_ ?_
  · rw [List.length_append, pseudoHeader_length, tcpBytes_length]
    omega
  · rw [memRead_tcpBytes_check, hz]
    rfl

end checksummed

/-! ### Building (R182, R183) -/

theorem autoDoff_toNat (options : Buffer) : (autoDoff options).toNat = (21 + options.length) % 16 := by
  rw [autoDoff, BitVec.toNat_ofNat, Config.tcpHdrLen]
  omega

section build
variable (srcIp dstIp : Bytes4) (sport dport : U16) (seq ackSeq : U32) (flags : Flags) (window urgPtr : U16)
  {options body : Buffer} (s : State)

theorem exec_tcpNewAuto_of_fits (h : options.length + body.length ≤ 65515) :
    exec (.tcpNewAuto srcIp dstIp sport dport seq ackSeq flags window urgPtr options body) s =
      .next (delivered s (.tcp (tcpSegmentOf srcIp dstIp sport dport seq ackSeq flags window urgPtr options body))) :=
  if_neg (mt (tcpTooLong_iff options body).1 (Nat.not_lt.2 h))

theorem exec_tcpNewAuto_of_too_long (h : 65515 < options.length + body.length) :
    exec (.tcpNewAuto srcIp dstIp sport dport seq ackSeq flags window urgPtr options body) s =
      .refused .tcpSegmentTooLong :=
  if_pos ((tcpTooLong_iff options body).2 h)

/-- A built segment verifies (R185). -/
theorem exec_cksum16_of_tcpSegmentOf (h : options.length + body.length ≤ 65515) :
    exec (.cksum16 (pseudoHeader srcIp dstIp (tcpLengthField options body) ++
        tcpBytes (tcpSegmentOf srcIp dstIp sport dport seq ackSeq flags window urgPtr options body))) s =
      .next (delivered s (.u16 0)) := by
  rw [exec_cksum16_of_short s (pseudoHeader_tcpBytes_short _ _ _ _ h), tcpSegmentOf, checksum_of_checksummed _ _ _ _ rfl h]

end build

/-! ### Parsing (R186, R187) -/

theorem exec_tcpParse_of_long {b : Buffer} (s : State) (h : 20 ≤ b.length) :
    exec (.tcpParse b) s = .next (delivered s (.tcp { toTcpHdr := tcpHdrFields b, options := [], body := [] })) :=
  if_neg (Nat.not_lt.2 h)

end Sys2Proof.Machine
end

section
/-! PROOFS. The statements of 43_tcp.md. -/

namespace Sys2Proof.Proofs

open Sys2Proof Sys2Proof.Machine Sys2Proof.Safety

/-- Settles O32, by `exec_cksum16_of_tcpSegmentOf`. -/
theorem builtSegmentVerifiesToZero : Obligations.BuiltSegmentVerifiesToZero :=
  fun srcIp dstIp sport dport seq ackSeq flags window urgPtr _ _ s h =>
    ⟨_, _, _, exec_tcpNewAuto_of_fits srcIp dstIp sport dport seq ackSeq flags window urgPtr s h, rfl, rfl,
      exec_cksum16_of_tcpSegmentOf srcIp dstIp sport dport seq ackSeq flags window urgPtr s h⟩

/-- Settles O33: a flag is its bit of byte 12 or 13 by definition, and the other fields are `tcpHdrFields_bytes`,
`doffOf_toNat` and `rsvOf_toNat`. -/
theorem tcpParseReadsHeaderOnly : Obligations.TcpParseReadsHeaderOnly := by
  intro b s h
  obtain ⟨hsport, hdport, hseq, hack, hwindow, hcheck, hurg⟩ := tcpHdrFields_bytes b
  rw [memRead_one, memRead_one]
  exact ⟨_, exec_tcpParse_of_long s h, hsport.symm, hdport.symm, hseq.symm, hack.symm, doffOf_toNat _, rsvOf_toNat _,
    rfl, rfl, rfl, rfl, rfl, rfl, rfl, rfl, rfl, hwindow.symm, hcheck.symm, hurg.symm, rfl, rfl⟩

/-- Settles O34: the header's fields do not depend on what follows them (`tcpHdrFields_append`). -/
theorem tcpParseNeverExtractsPayload : Obligations.TcpParseNeverExtractsPayload := by
  intro b rest s h
  have hlong : 20 ≤ (b ++ rest).length := by rw [List.length_append]; omega
  refine ⟨?_, _, exec_tcpParse_of_long s h, rfl, rfl⟩
  rw [exec_tcpParse_of_long s hlong, exec_tcpParse_of_long s h, tcpHdrFields_append rest h]

/-- Settles O35: the layout's integer fields are those of the header read back from it, which is the record's, and the control
bytes are `ctrlByte12_toNat` and `ctrlByte13_toNat`. -/
theorem tcpMarshalWritesLayout : Obligations.TcpMarshalWritesLayout := by
  intro g s
  have hg : tcpHdrFields (tcpHdrLayout g.toTcpHdr) = g.toTcpHdr := by simpa using tcpHdrFields_layout g.toTcpHdr []
  have hb := tcpHdrFields_bytes (tcpHdrLayout g.toTcpHdr)
  rw [hg] at hb
  obtain ⟨hsport, hdport, hseq, hack, hwindow, hcheck, hurg⟩ := hb
  exact ⟨_, _, rfl, rfl, rfl, tcpHdrLayout_length _, hsport, hdport, hseq, hack, rfl, rfl,
    (memRead_one _ 0).trans (ctrlByte12_toNat _ _ _), (memRead_one _ 1).trans (ctrlByte13_toNat _), hwindow, hcheck, hurg⟩

/-- Settles O36, by `tcpHdrFields_tcpBytes` and `tcpHdrLayout_fields`. -/
theorem tcpCodecRoundTrips : Obligations.TcpCodecRoundTrips := by
  refine ⟨fun g s => ⟨tcpBytes g, rfl, ?_⟩, fun b s h => ⟨_, exec_tcpParse_of_long s h, ?_⟩⟩
  · rw [exec_tcpParse_of_long s (by rw [tcpBytes_length]; omega), tcpHdrFields_tcpBytes]
    rfl
  · have hb : tcpBytes { toTcpHdr := tcpHdrFields b, options := [], body := [] } = b.take 20 := by
      simp only [tcpBytes, List.append_nil, tcpHdrLayout_fields b h]
    rw [← hb]
    rfl

/-- Settles O29: the delivered record is made of the operands. -/
theorem tcpNewRawTakesOperands : Obligations.TcpNewRawTakesOperands := fun _ _ _ _ _ _ _ _ _ _ _ _ _ =>
  ⟨_, rfl, rfl, rfl, rfl, rfl, rfl, rfl, rfl, rfl, rfl, rfl, rfl, rfl⟩

/-- Settles O30: the segment is `tcpSegmentOf`, and the two buffers are those its checksum was computed over. -/
theorem tcpNewAutoFillsHeader : Obligations.TcpNewAutoFillsHeader := by
  refine fun srcIp dstIp sport dport seq ackSeq flags window urgPtr options body s =>
    ⟨fun h => ⟨_, exec_tcpNewAuto_of_fits srcIp dstIp sport dport seq ackSeq flags window urgPtr s h, rfl, rfl, rfl, rfl,
      autoDoff_toNat options, rfl, rfl, rfl, rfl, rfl, rfl, fun ph b hph hb => ?_⟩,
    exec_tcpNewAuto_of_too_long srcIp dstIp sport dport seq ackSeq flags window urgPtr s⟩
  cases hph
  cases hb
  exact exec_cksum16_of_short s (pseudoHeader_tcpBytes_short _ _ _ _ h)

/-- Settles O37, field by field; the two views end in a flag (`append_ofBool_toNat`). -/
theorem tcpGetReturnsFields : Obligations.TcpGetReturnsFields := by
  intro g f s
  refine ⟨tcpFieldValue g f, rfl, ?_⟩
  cases f with
  | res1 => exact ⟨_, rfl, append_ofBool_toNat _ _⟩
  | res2 => exact ⟨_, rfl, by rw [res2View, append_ofBool_toNat, BitVec.toNat_ofBool]⟩
  | _ => rfl

end Sys2Proof.Proofs
end

section
/-! PROOFS. What the operations of the Transmission Control Block do to the counters, and what a list of operations and a step
keep (44_tcb.md R211 to R221). -/

namespace Sys2Proof.Machine

open Sys2Proof Sys2Proof.Safety

/-! ### The operations -/

theorem isn_toNat (tUs : Nat) : (isn tUs).toNat = tUs / 4 % 2 ^ 32 := BitVec.toNat_ofNat _ _

/-- A 16-bit operand keeps its value in a 32-bit counter (D14). -/
theorem zeroExtend32_toNat (v : U16) : (v.zeroExtend 32).toNat = v.toNat := BitVec.toNat_setWidth_of_le (by decide)

section send
variable (srcIp dstIp : Bytes4) (srcPort dstPort : U16) (flags : Flags) (window urgentPointer : U16)
  {options body : Buffer} (s : State)

/-- The segment of a send that fits is numbered by the counters as they were (R213). -/
theorem exec_tcbSend_of_fits (h : options.length + body.length ≤ 65515) :
    exec (.tcbSend srcIp srcPort dstIp dstPort flags window urgentPointer options body) s =
      .next (delivered { s with tcb := sendCounters s.tcb flags window urgentPointer body }
        (.tcp (tcpSegmentOf srcIp dstIp srcPort dstPort s.tcb.sndNxt s.tcb.rcvNxt flags window urgentPointer
          options body))) :=
  if_neg (mt (tcpTooLong_iff options body).1 (Nat.not_lt.2 h))

theorem exec_tcbSend_of_too_long (h : 65515 < options.length + body.length) :
    exec (.tcbSend srcIp srcPort dstIp dstPort flags window urgentPointer options body) s =
      .refused .tcpSegmentTooLong :=
  if_pos ((tcpTooLong_iff options body).2 h)

end send

theorem exec_tcbRecv (g : TcpSeg) (s : State) :
    exec (.tcbRecv g) s = .next (delivered { s with tcb := recvCounters s.tcb g } .unit) := rfl

/-! ### The rows of RCV.NXT's decision table (R216) -/

section rcvNxt
variable (old : U32) {g : TcpSeg}

theorem nextRcvNxt_of_syn_or_fin (h : g.flags.syn = true ∨ g.flags.fin = true) : nextRcvNxt old g = g.seq + 1 :=
  if_pos (Bool.or_eq_true_iff.2 h)

theorem nextRcvNxt_of_empty_without_ack (hack : g.flags.ack = false) (hbody : g.body = []) :
    nextRcvNxt old g = g.seq + 1 := by
  simp [nextRcvNxt, hack, hbody]

theorem nextRcvNxt_of_body (hsyn : g.flags.syn = false) (hfin : g.flags.fin = false) (hbody : g.body ≠ []) :
    nextRcvNxt old g = g.seq + BitVec.ofNat 32 g.body.length := by
  simp [nextRcvNxt, hsyn, hfin, hbody]

theorem nextRcvNxt_of_bare_ack (hsyn : g.flags.syn = false) (hfin : g.flags.fin = false) (hack : g.flags.ack = true)
    (hbody : g.body = []) : nextRcvNxt old g = old := by
  simp [nextRcvNxt, hsyn, hfin, hack, hbody]

end rcvNxt

/-! ### What SND.NXT counts (R221 (c)) -/

/-- An operation other than `TCB.INIT` adds what it consumes to SND.NXT. -/
theorem countersAfter_sndNxt {i : Instr} (c : Tcb) (h : isInit i = false) :
    (countersAfter c i).sndNxt = c.sndNxt + BitVec.ofNat 32 (consumed i) := by
  cases i with
  | tcbInit => exact nomatch h
  | tcbSend => rw [countersAfter, sendCounters_eq, sendAdvance_eq_ofNat, consumed]
  | tcbRecv g => exact (recvCounters_send_side c g).1.trans (BitVec.add_zero _).symm
  | _ => exact (BitVec.add_zero _).symm

/-- A list of operations that runs to its end has completed its first one. -/
theorem runOps_cons_next {i : Instr} {ops : List Instr} {s t : State} (h : runOps (i :: ops) s = .next t) :
    ∃ u, exec i (issue s) = .next u ∧ runOps ops u = .next t := by
  rw [runOps] at h
  cases hx : exec i (issue s) with
  | next u => exact ⟨u, rfl, by rwa [hx] at h⟩
  | fault f => rw [hx] at h; exact nomatch h
  | refused r => rw [hx] at h; exact nomatch h

/-- What the operations of a list consume adds up, modulo 2^32. -/
theorem runOps_next_sndNxt (ops : List Instr) (s t : State) (hops : ∀ i ∈ ops, isInit i = false)
    (h : runOps ops s = .next t) : t.tcb.sndNxt = s.tcb.sndNxt + BitVec.ofNat 32 (ops.map consumed).sum := by
  induction ops generalizing s with
  | nil => cases h; exact (BitVec.add_zero _).symm
  | cons i ops ih =>
    obtain ⟨hi, hrest⟩ := List.forall_mem_cons.1 hops
    obtain ⟨u, hx, hu⟩ := runOps_cons_next h
    have hfirst : u.tcb.sndNxt = s.tcb.sndNxt + BitVec.ofNat 32 (consumed i) := by
      rw [exec_next_tcb hx, issue_tcb, countersAfter_sndNxt _ hi]
    rw [ih u hrest hu, hfirst, BitVec.add_assoc, ← BitVec.ofNat_add, List.map_cons, List.sum_cons]

/-! ### The 16-bit counters (R218) -/

/-- The four counters that only ever take 16-bit values. -/
structure ShortCounters (c : Tcb) : Prop where
  sndUp : c.sndUp.toNat < 2 ^ 16
  sndWl1 : c.sndWl1.toNat < 2 ^ 16
  rcvWnd : c.rcvWnd.toNat < 2 ^ 16
  rcvUp : c.rcvUp.toNat < 2 ^ 16

theorem zeroExtend32_short (v : U16) : (v.zeroExtend 32).toNat < 2 ^ 16 := by
  rw [zeroExtend32_toNat]; exact v.isLt

/-- A 16-bit operand that is written only under a flag leaves the counter short. -/
theorem ite_zeroExtend32_short (flag : Bool) (v : U16) {old : U32} (h : old.toNat < 2 ^ 16) :
    (if flag then v.zeroExtend 32 else old).toNat < 2 ^ 16 := by
  split
  · exact zeroExtend32_short v
  · exact h

/-- The zeros of D13 are short. -/
theorem initTcb_short (tUs : Nat) : ShortCounters (initTcb tUs) := by
  have hzero : Config.tcbResetOther.toNat < 2 ^ 16 := by decide
  exact ⟨hzero, hzero, hzero, hzero⟩

theorem sendCounters_short {c : Tcb} (h : ShortCounters c) (flags : Flags) (window urgentPointer : U16) (body : Buffer) :
    ShortCounters (sendCounters c flags window urgentPointer body) := by
  rw [sendCounters_eq]
  exact ⟨ite_zeroExtend32_short _ _ h.sndUp, zeroExtend32_short _, h.rcvWnd, h.rcvUp⟩

theorem recvCounters_short {c : Tcb} (h : ShortCounters c) (g : TcpSeg) : ShortCounters (recvCounters c g) := by
  rw [recvCounters_eq]
  exact ⟨h.sndUp, h.sndWl1, zeroExtend32_short _, ite_zeroExtend32_short _ _ h.rcvUp⟩

theorem countersAfter_short {c : Tcb} (h : ShortCounters c) (i : Instr) : ShortCounters (countersAfter c i) := by
  unfold countersAfter
  split
  · exact initTcb_short _
  · exact sendCounters_short h _ _ _ _
  · exact recvCounters_short h _
  · exact h

/-! ### The invariant -/

theorem inv_iff {s : State} : Inv s ↔ ShortCounters s.tcb ∧ (s.awaitingArp = true → s.response = none) ∧
    ∀ f ∈ s.env.arp.sent, IsArpRequest f := by
  constructor
  · rintro ⟨hup, hwl1, hwnd, hrup, hwait, hsent⟩
    exact ⟨⟨hup, hwl1, hwnd, hrup⟩, hwait, hsent⟩
  · rintro ⟨⟨hup, hwl1, hwnd, hrup⟩, hwait, hsent⟩
    exact ⟨hup, hwl1, hwnd, hrup, hwait, hsent⟩

/-- The frame of `ARP.RESOLVE` is a broadcast of a request (R135, R136). -/
theorem isArpRequest_of_resolve (iface : Text) (localMac : Bytes6) (localIp remoteIp : Bytes4) :
    IsArpRequest ⟨iface, macBroadcast, arpLayout (arpRequest localMac localIp remoteIp)⟩ := by
  rw [arpLayout_arpRequest]
  exact ⟨rfl, rfl, rfl⟩

/-- The wait of `ARP.RESOLVE` sends nothing, and it delivers something only when it ends. -/
theorem arpAwaitReply_next_inv {s t : State} (hs : Inv s) (h : arpAwaitReply s = .next t) : Inv t := by
  obtain ⟨hshort, -, hsent⟩ := inv_iff.1 hs
  rcases arpAwaitReply_cases s with ⟨-, he⟩ | ⟨_, _, -, he⟩ | ⟨_, _, -, -, he⟩ | ⟨_, _, -, -, he⟩ <;>
    cases he.symm.trans h
  · exact inv_iff.2 ⟨hshort, fun _ => rfl, hsent⟩
  · exact inv_iff.2 ⟨hshort, nofun, hsent⟩
  · exact inv_iff.2 ⟨hshort, nofun, hsent⟩

/-- An operation that completes, issued when none is in progress, keeps the invariant. -/
theorem exec_next_inv {i : Instr} {s t : State} (hs : Inv s) (ha : s.awaitingArp = false) (h : exec i s = .next t) :
    Inv t := by
  obtain ⟨hshort, -, hsent⟩ := inv_iff.1 hs
  have hquiet (r : Option Response) : s.awaitingArp = true → r = none := fun hw => nomatch ha.symm.trans hw
  cases hr : isResolve i with
  | true =>
    obtain ⟨remoteIp, localMac, localIp, iface, rfl⟩ := isResolve_iff.1 hr
    rcases exec_arpResolve_cases remoteIp localMac localIp iface s with ⟨_, _, -, he⟩ | ⟨-, he⟩
    · cases he.symm.trans h
      exact inv_iff.2 ⟨hshort, hquiet _, hsent⟩
    · have hrequest := isArpRequest_of_resolve iface localMac localIp remoteIp
      refine arpAwaitReply_next_inv (inv_iff.2 ?_) (he.symm.trans h)
      exact ⟨hshort, hquiet _, List.forall_mem_append.2 ⟨hsent, List.forall_mem_singleton.2 hrequest⟩⟩
  | false =>
    obtain ⟨hwait, -, henv⟩ := exec_next_frame hr h
    refine inv_iff.2 ⟨?_, by rw [hwait]; exact hquiet _, by rw [henv]; exact hsent⟩
    rw [exec_next_tcb h]
    exact countersAfter_short hshort i

theorem issue_inv {s : State} (hs : Inv s) : Inv (issue s) := by
  obtain ⟨hshort, -, hsent⟩ := inv_iff.1 hs
  exact inv_iff.2 ⟨hshort, fun _ => rfl, hsent⟩

/-- The step lemma of the invariant, in the four cases of a step. -/
theorem step_next_inv {s t : State} (hs : Inv s) (h : step s = .next t) : Inv t := by
  rcases step_cases s with ⟨-, he⟩ | ⟨-, -, he⟩ | ⟨_, _, i, _, ha, -, -, he⟩ | ⟨_, _, _, -, -, he⟩
  · exact arpAwaitReply_next_inv hs (he.symm.trans h)
  · cases he.symm.trans h; exact hs
  · exact exec_next_inv (issue_inv hs) ha (he.symm.trans h)
  · exact nomatch he.symm.trans h

end Sys2Proof.Machine
end

section
/-! PROOFS. The statements of 44_tcb.md. -/

namespace Sys2Proof.Proofs

open Sys2Proof Sys2Proof.Machine Sys2Proof.Safety

/-- Settles O46, by induction on the list: `runOps_next_sndNxt`. -/
theorem sndNxtCountsWhatWasSent : Obligations.SndNxtCountsWhatWasSent := runOps_next_sndNxt

/-- Settles O54, by `step_next_inv`. -/
theorem stepKeepsInvariant : Obligations.StepKeepsInvariant := fun _ _ => step_next_inv

/-- Settles O40: both operations deliver `tcpSegmentOf` at the counters before the send, and the counters after it are those
of `sendCounters_eq`. -/
theorem sendNumbersSegmentAndAdvances : Obligations.SendNumbersSegmentAndAdvances := by
  refine fun srcIp dstIp srcPort dstPort flags window urgentPointer options body s => ⟨fun h => ⟨_, _,
    exec_tcbSend_of_fits srcIp dstIp srcPort dstPort flags window urgentPointer s h,
    exec_tcpNewAuto_of_fits srcIp dstIp srcPort dstPort _ _ flags window urgentPointer s h, ?_⟩,
    exec_tcbSend_of_too_long srcIp dstIp srcPort dstPort flags window urgentPointer s⟩
  rw [sendCounters_eq, sendAdvance_eq_ofNat]
  refine ⟨rfl, ?_, ?_, zeroExtend32_toNat window, rfl, rfl, rfl, rfl, rfl, rfl⟩
  · rw [BitVec.toNat_add, BitVec.toNat_ofNat, Nat.add_mod_mod]
  · rw [apply_ite BitVec.toNat, zeroExtend32_toNat]

/-- Settles O38: the two counters hold `isn`, whatever the state. -/
theorem initSetsIssAndSndNxtFromTime : Obligations.InitSetsIssAndSndNxtFromTime := fun tUs _ =>
  ⟨initTcb tUs, rfl, isn_toNat tUs, isn_toNat tUs⟩

/-- Settles O41: the send completed, so it fitted, and the segment and the two counters take the same numbers. -/
theorem sendLeavesUnaAndWl2OfSegment : Obligations.SendLeavesUnaAndWl2OfSegment := by
  intro srcIp dstIp srcPort dstPort flags window urgentPointer options body s t g h hg
  rcases Nat.lt_or_ge 65515 (options.length + body.length) with hlong | hfits
  · exact nomatch (exec_tcbSend_of_too_long srcIp dstIp srcPort dstPort flags window urgentPointer s hlong).symm.trans h
  · cases (exec_tcbSend_of_fits srcIp dstIp srcPort dstPort flags window urgentPointer s hfits).symm.trans h
    cases hg
    rw [delivered_tcb, sendCounters_eq]
    exact ⟨rfl, rfl⟩

/-- Settles O42, one lemma for each row of the table. -/
theorem recvUpdatesRcvNxtByTable : Obligations.RecvUpdatesRcvNxtByTable := by
  intro g s
  refine ⟨_, exec_tcbRecv g s, ?_⟩
  rw [delivered_tcb, recvCounters_eq]
  exact ⟨nextRcvNxt_of_syn_or_fin _, fun _ _ => nextRcvNxt_of_empty_without_ack _, nextRcvNxt_of_body _,
    nextRcvNxt_of_bare_ack _⟩

/-- Settles O43: the counters are those of `recvCounters_eq`, read as numbers. -/
theorem recvUpdatesOtherCounters : Obligations.RecvUpdatesOtherCounters := by
  intro g s
  refine ⟨_, exec_tcbRecv g s, ?_⟩
  rw [recvCounters_eq]
  refine ⟨?_, zeroExtend32_toNat _, ?_, rfl, rfl, rfl, rfl, rfl, rfl⟩
  · rw [apply_ite BitVec.toNat, BitVec.toNat_add]; rfl
  · rw [apply_ite BitVec.toNat, zeroExtend32_toNat]

/-- Settles O44: the SYN took one number, the reply acknowledges the one after it, and the receive adds one more to that. -/
theorem handshakeLeavesUnaAheadOfNxt : Obligations.HandshakeLeavesUnaAheadOfNxt := by
  intro srcIp dstIp srcPort dstPort flags window urgentPointer options body reply s hsyn hfits hrsyn hrack hseq
  refine ⟨_, _, exec_tcbSend_of_fits srcIp dstIp srcPort dstPort flags window urgentPointer s hfits, exec_tcbRecv reply _, ?_⟩
  have hadvance : sendAdvance flags body = 1 := by simp [sendAdvance, hsyn]
  rw [delivered_tcb, recvCounters_eq, delivered_tcb, sendCounters_eq]
  refine ⟨if_pos hrack, nextRcvNxt_of_syn_or_fin _ (.inl hrsyn), if_pos hrsyn, (if_pos hrack).trans ?_⟩
  rw [hseq, hadvance]

/-- Settles O45, counter by counter. -/
theorem tcbGetReturnsCounter : Obligations.TcbGetReturnsCounter := fun c _ => by cases c <;> rfl

end Sys2Proof.Proofs
end

section
/-! PROOFS. When an operation reports an error and when it stops (60_exceptions.md R240 to R248, R261): for each operation that
can, the inputs that make it do so. -/

namespace Sys2Proof.Machine

open Sys2Proof Sys2Proof.Safety

/-! ### Reading an address (R242, R243) -/

/-- `k` delimiters separate `k + 1` parts (R116). -/
theorem splitText_length (d : Byte) (text : Text) : (splitText d text).length = text.count d + 1 := by
  rw [splitText_eq_splitOn]
  induction text with
  | nil => rfl
  | cons c text ih =>
    rw [List.splitOn_cons_eq_if_modifyHead, List.count_cons]
    cases c == d <;> simp [ih]

/-- The delimiters are counted before any part is read (D21). -/
theorem addrOfText_of_wrong_count {kind : AddrKind} {text : Text} (h : text.count (delimiter kind) + 1 ≠ octetCount kind) :
    addrOfText kind text = .error (.delimiterCount (text.count (delimiter kind))) := by
  simp [addrOfText, splitText_length, h]

/-- A part is valid when it denotes a number up to 255 (R117). -/
theorem partValue_isSome_iff {kind : AddrKind} {part : Text} :
    (partValue kind part).isSome ↔ ∃ v, Denotes kind part v ∧ v ≤ 255 := by
  simp only [Option.isSome_iff_exists, partValue_eq_some_iff]
  exact ⟨fun ⟨_, v, hv, hle, _⟩ => ⟨v, hv, hle⟩, fun ⟨v, hv, hle⟩ => ⟨_, v, hv, hle, rfl⟩⟩

/-- The first part that is not valid ends the reading with its index (R248). -/
theorem partsValue_eq_error {kind : AddrKind} {parts : List Text} {k : Nat} (i : Nat) (hk : k < parts.length)
    (hgood : ∀ j < k, (partValue kind (parts.getD j [])).isSome) (hbad : partValue kind (parts.getD k []) = none) :
    partsValue kind i parts = .error (i + k) := by
  induction parts generalizing i k with
  | nil => exact nomatch hk
  | cons part parts ih =>
    cases k with
    | zero =>
      have hpart : partValue kind part = none := hbad
      simp only [partsValue, hpart, Nat.add_zero]
    | succ k =>
      obtain ⟨v, (hpart : partValue kind part = some v)⟩ := Option.isSome_iff_exists.1 (hgood 0 k.succ_pos)
      have hrest := ih (i + 1) (Nat.lt_of_succ_lt_succ hk) (fun j hj => hgood (j + 1) (Nat.succ_lt_succ hj)) hbad
      simp only [partsValue, hpart, hrest, Nat.add_right_comm i 1 k, Nat.add_assoc]

/-- `N` parts joined by the delimiter, of which the first that is not valid stands at `k`. -/
theorem addrOfText_of_bad_part {kind : AddrKind} {parts : List Text} {k : Nat} (hn : parts.length = octetCount kind)
    (hdelim : ∀ part ∈ parts, delimiter kind ∉ part) (hk : k < parts.length)
    (hgood : ∀ j < k, ∃ v, Denotes kind (parts.getD j []) v ∧ v ≤ 255)
    (hbad : ¬ ∃ v, Denotes kind (parts.getD k []) v ∧ v ≤ 255) :
    addrOfText kind ([delimiter kind].intercalate parts) = .error (.octet k) := by
  have hne : parts ≠ [] := List.ne_nil_of_length_pos (Nat.zero_lt_of_lt hk)
  have hvals : partsValue kind 0 parts = .error (0 + k) :=
    partsValue_eq_error 0 hk (fun j hj => partValue_isSome_iff.2 (hgood j hj))
      (Option.not_isSome_iff_eq_none.1 (mt partValue_isSome_iff.1 hbad))
  simp [addrOfText, splitText_eq_splitOn, List.splitOn_intercalate _ hdelim hne, hn, hvals]

/-- The two ways in which a text is no address (R116). -/
theorem addrOfText_eq_error {kind : AddrKind} {text : Text} {e : OpError} (h : addrOfText kind text = .error e) :
    (∃ found, e = .delimiterCount found) ∨ ∃ index, e = .octet index := by
  simp only [addrOfText] at h
  split at h
  · cases h; exact .inl ⟨_, rfl⟩
  · split at h
    · cases h; exact .inr ⟨_, rfl⟩
    · exact nomatch h

theorem exec_addrFromStr_of_error {kind : AddrKind} {text : Text} {e : OpError} (s : State)
    (h : addrOfText kind text = .error e) : exec (.addrFromStr kind text) s = .next (reported s e) := by
  simp [exec, execAddrFromStr, h]

/-! ### Parsing a header (R244) -/

theorem exec_ipParse_of_short {b : Buffer} (s : State) (h : b.length < 20) :
    exec (.ipParse b) s = .next (reported s (.size b.length)) := if_pos h

/-- Everything `IP.PARSE` can do with a buffer that holds a header: stop, when the body runs past its end, or deliver a packet
(R154). -/
theorem exec_ipParse_cases_of_long {b : Buffer} (s : State) (h : 20 ≤ b.length) :
    ((ipHdrFields b).ihl.toNat * 4 < (ipHdrFields b).totLen.toNat ∧ b.length < (ipHdrFields b).totLen.toNat ∧
      exec (.ipParse b) s = .fault .ipBodyOutOfRange) ∨
    (¬ ((ipHdrFields b).ihl.toNat * 4 < (ipHdrFields b).totLen.toNat ∧ b.length < (ipHdrFields b).totLen.toNat) ∧
      ∃ p, exec (.ipParse b) s = .next (delivered s (.ip p))) := by
  rcases Nat.lt_or_ge ((ipHdrFields b).ihl.toNat * 4) (ipHdrFields b).totLen.toNat with hbody | hbody
  · rcases Nat.lt_or_ge b.length (ipHdrFields b).totLen.toNat with hout | hin
    · exact .inl ⟨hbody, hout, exec_ipParse_of_body_past_end s h hbody hout⟩
    · exact .inr ⟨fun hc => absurd hin (Nat.not_le.2 hc.2), _, exec_ipParse_of_body s h hbody hin⟩
  · exact .inr ⟨fun hc => absurd hbody (Nat.not_le.2 hc.1), _, exec_ipParse_of_no_body s h hbody⟩

theorem exec_tcpParse_of_short {b : Buffer} (s : State) (h : b.length < 20) :
    exec (.tcpParse b) s = .next (reported s (.size b.length)) := if_pos h

/-! ### Resolving (R245) -/

/-- A failure of the transport ends the wait (R245). -/
theorem arpAwaitReply_of_failure {s : State} {text : Text} {rest : List RecvEvent}
    (h : s.env.arp.rx = .failure text :: rest) : arpAwaitReply s =
      .next (reported { setArpTransport { s.env.arp with rx := rest } s with awaitingArp := false } (.transport text)) := by
  rcases arpAwaitReply_cases s with ⟨hrx, -⟩ | ⟨_, _, hrx, he⟩ | ⟨_, _, hrx, -⟩ | ⟨_, _, hrx, -⟩ <;>
    cases h.symm.trans hrx
  exact he

/-- A first frame of fewer than 28 bytes is the model's stop (R138, U3). -/
theorem arpAwaitReply_of_short_frame {s : State} {payload : Buffer} {rest : List RecvEvent}
    (h : s.env.arp.rx = .frame payload :: rest) (hp : payload.length < 28) : arpAwaitReply s = .fault .arpShortInput := by
  rcases arpAwaitReply_cases s with ⟨hrx, -⟩ | ⟨_, _, hrx, -⟩ | ⟨_, _, -, -, he⟩ | ⟨_, _, hrx, hge, -⟩
  · exact nomatch h.symm.trans hrx
  · exact nomatch h.symm.trans hrx
  · exact he
  · cases h.symm.trans hrx
    exact absurd hp (Nat.not_lt.2 hge)

/-- A failed `send` is reported and nothing is received (R245). -/
theorem exec_arpResolve_of_send_failure {s : State} {text : Text} {answers : List (Option Text)} (remoteIp : Bytes4)
    (localMac : Bytes6) (localIp : Bytes4) (iface : Text) (h : s.env.arp.txAnswers = some text :: answers) :
    exec (.arpResolve remoteIp localMac localIp iface) s =
      .next (reported (setArpTransport { s.env.arp with txAnswers := answers } s) (.transport text)) := by
  rcases exec_arpResolve_cases remoteIp localMac localIp iface s with ⟨_, _, htx, he⟩ | ⟨htx, -⟩
  · cases h.symm.trans htx
    exact he
  · rw [h] at htx
    exact nomatch htx

/-- The only error that the wait of `ARP.RESOLVE` reports is that of the transport. -/
theorem arpAwaitReply_next_error {s t : State} {e : OpError} (h : arpAwaitReply s = .next t)
    (ht : t.response = some (.error e)) : ∃ text, e = .transport text := by
  rcases arpAwaitReply_cases s with ⟨-, he⟩ | ⟨text, _, -, he⟩ | ⟨_, _, -, -, he⟩ | ⟨_, _, -, -, he⟩ <;>
    cases he.symm.trans h <;> cases ht
  exact ⟨text, rfl⟩

/-- The only error that `ARP.RESOLVE` reports is that of the transport (R245). -/
theorem exec_arpResolve_next_error {remoteIp : Bytes4} {localMac : Bytes6} {localIp : Bytes4} {iface : Text} {s t : State}
    {e : OpError} (h : exec (.arpResolve remoteIp localMac localIp iface) s = .next t)
    (ht : t.response = some (.error e)) : ∃ text, e = .transport text := by
  rcases exec_arpResolve_cases remoteIp localMac localIp iface s with ⟨text, _, -, he⟩ | ⟨-, he⟩
  · cases he.symm.trans h; cases ht
    exact ⟨text, rfl⟩
  · exact arpAwaitReply_next_error (he.symm.trans h) ht

/-! ### Which operations report an error (R241) -/

/-- An operation other than `ARP.RESOLVE` that reports an error has changed nothing but the response (R246). -/
theorem exec_next_error_eq_reported {i : Instr} {s t : State} {e : OpError} (hr : isResolve i = false)
    (h : exec i s = .next t) (ht : t.response = some (.error e)) : t = reported s e := by
  rcases exec_cases s hr with ⟨v, he⟩ | ⟨e', -, he⟩ | ⟨f, he⟩ | ⟨r, he⟩ <;> cases he.symm.trans h <;> cases ht
  rfl

/-- An operation that reports an error has changed no counter (R246). -/
theorem exec_next_error_tcb {i : Instr} {s t : State} {e : OpError} (h : exec i s = .next t)
    (ht : t.response = some (.error e)) : t.tcb = s.tcb := by
  cases hr : isResolve i with
  | true =>
    obtain ⟨_, _, _, _, rfl⟩ := isResolve_iff.1 hr
    exact exec_next_tcb h
  | false => rw [exec_next_error_eq_reported hr h ht, reported_tcb]

/-- Which operation reports an error, and on what input (R241). -/
theorem exec_next_error_cases {i : Instr} {s t : State} {e : OpError} (h : exec i s = .next t)
    (ht : t.response = some (.error e)) :
    (∃ kind text, i = .addrFromStr kind text ∧ addrOfText kind text = .error e) ∨
    (∃ b : Buffer, b.length < 20 ∧ e = .size b.length ∧ (i = .ipParse b ∨ i = .tcpParse b)) ∨
    (isResolve i = true ∧ ∃ text, e = .transport text) := by
  cases i with
  | addrFromStr kind text =>
    left
    cases ha : addrOfText kind text with
    | ok a => cases (exec_addrFromStr_of_ok s ha).symm.trans h; cases ht
    | error e' =>
      cases (exec_addrFromStr_of_error s ha).symm.trans h; cases ht
      exact ⟨kind, text, rfl, ha⟩
  | ipParse b =>
    right; left
    rcases Nat.lt_or_ge b.length 20 with hb | hb
    · cases (exec_ipParse_of_short s hb).symm.trans h; cases ht
      exact ⟨b, hb, rfl, .inl rfl⟩
    · rcases exec_ipParse_cases_of_long s hb with ⟨-, -, he⟩ | ⟨-, p, he⟩ <;> cases he.symm.trans h
      cases ht
  | tcpParse b =>
    right; left
    rcases Nat.lt_or_ge b.length 20 with hb | hb
    · cases (exec_tcpParse_of_short s hb).symm.trans h; cases ht
      exact ⟨b, hb, rfl, .inr rfl⟩
    · cases (exec_tcpParse_of_long s hb).symm.trans h; cases ht
  | arpResolve => exact .inr (.inr ⟨rfl, exec_arpResolve_next_error h ht⟩)
  | arpParse | cksum16 | ipBuild | tcpNewAuto | tcbSend =>
    simp only [exec, execArpParse, execCksum16, execIpBuild, execTcpNewAuto, execTcbSend] at h
    split at h <;> cases h; cases ht
  | _ => cases h; cases ht

/-! ### Which operations stop (R261) -/

theorem not_completes_fault (f : Fault) : ¬ Completes (.fault f) := fun ⟨_, h⟩ => nomatch h

theorem not_completes_refused (r : Refusal) : ¬ Completes (.refused r) := fun ⟨_, h⟩ => nomatch h

/-- An outcome that is a stop in one case and a next state in the other. -/
theorem not_completes_iff_of {o : Result} {c : Prop} (hstop : c → ¬ Completes o) (hnext : ¬ c → Completes o) :
    ¬ Completes o ↔ c :=
  ⟨fun h => by_contra fun hc => h (hnext hc), hstop⟩

section stops
variable (s : State)

theorem completes_addrFromStr (kind : AddrKind) (text : Text) : Completes (exec (.addrFromStr kind text) s) := by
  cases ha : addrOfText kind text with
  | ok a => exact ⟨_, exec_addrFromStr_of_ok s ha⟩
  | error e => exact ⟨_, exec_addrFromStr_of_error s ha⟩

theorem completes_tcpParse (b : Buffer) : Completes (exec (.tcpParse b) s) := by
  rcases Nat.lt_or_ge b.length 20 with hb | hb
  · exact ⟨_, exec_tcpParse_of_short s hb⟩
  · exact ⟨_, exec_tcpParse_of_long s hb⟩

theorem not_completes_arpParse (b : Buffer) : ¬ Completes (exec (.arpParse b) s) ↔ b.length < 28 :=
  not_completes_iff_of (fun h => exec_arpParse_of_short s h ▸ not_completes_fault _)
    fun h => ⟨_, exec_arpParse_of_long s (Nat.not_lt.1 h)⟩

theorem not_completes_cksum16 (b : Buffer) : ¬ Completes (exec (.cksum16 b) s) ↔ 131072 ≤ b.length :=
  not_completes_iff_of (fun h => exec_cksum16_of_long s h ▸ not_completes_refused _)
    fun h => ⟨_, exec_cksum16_of_short s (Nat.not_le.1 h)⟩

theorem not_completes_ipBuild (protocol : Byte) (srcIp dstIp : Bytes4) (body : Buffer) :
    ¬ Completes (exec (.ipBuild protocol srcIp dstIp body) s) ↔ 65515 < body.length :=
  not_completes_iff_of (fun h => exec_ipBuild_of_too_long protocol srcIp dstIp s h ▸ not_completes_refused _)
    fun h => ⟨_, exec_ipBuild_of_fits protocol srcIp dstIp s (Nat.not_lt.1 h)⟩

theorem not_completes_tcpNewAuto (srcIp dstIp : Bytes4) (sport dport : U16) (seq ackSeq : U32) (flags : Flags)
    (window urgPtr : U16) (options body : Buffer) :
    ¬ Completes (exec (.tcpNewAuto srcIp dstIp sport dport seq ackSeq flags window urgPtr options body) s) ↔
      65515 < options.length + body.length :=
  not_completes_iff_of
    (fun h => exec_tcpNewAuto_of_too_long srcIp dstIp sport dport seq ackSeq flags window urgPtr s h ▸
      not_completes_refused _)
    fun h => ⟨_, exec_tcpNewAuto_of_fits srcIp dstIp sport dport seq ackSeq flags window urgPtr s (Nat.not_lt.1 h)⟩

theorem not_completes_tcbSend (srcIp : Bytes4) (srcPort : U16) (dstIp : Bytes4) (dstPort : U16) (flags : Flags)
    (window urgentPointer : U16) (options body : Buffer) :
    ¬ Completes (exec (.tcbSend srcIp srcPort dstIp dstPort flags window urgentPointer options body) s) ↔
      65515 < options.length + body.length :=
  not_completes_iff_of
    (fun h => exec_tcbSend_of_too_long srcIp dstIp srcPort dstPort flags window urgentPointer s h ▸
      not_completes_refused _)
    fun h => ⟨_, exec_tcbSend_of_fits srcIp dstIp srcPort dstPort flags window urgentPointer s (Nat.not_lt.1 h)⟩

/-- The header length and the total length are read from the bytes at offsets 0 and 2 (R154). -/
theorem not_completes_ipParse (b : Buffer) : ¬ Completes (exec (.ipParse b) s) ↔
    20 ≤ b.length ∧ memRead b 0 1 % 16 * 4 < memRead b 2 2 ∧ b.length < memRead b 2 2 := by
  rcases Nat.lt_or_ge b.length 20 with hb | hb
  · exact iff_of_false (not_not_intro ⟨_, exec_ipParse_of_short s hb⟩) fun hc => absurd hb (Nat.not_lt.2 hc.1)
  · obtain ⟨hfirst, -, htot, -⟩ := ipHdrFields_bytes hb
    have hihl : memRead b 0 1 % 16 = (ipHdrFields b).ihl.toNat := by
      have := (ipHdrFields b).ihl.isLt
      omega
    rw [hihl, htot]
    rcases exec_ipParse_cases_of_long s hb with ⟨hbody, hout, he⟩ | ⟨hc, p, he⟩
    · exact iff_of_true (he ▸ not_completes_fault _) ⟨hb, hbody, hout⟩
    · exact iff_of_false (not_not_intro ⟨_, he⟩) fun h => hc h.2

end stops

/-- The wait of `ARP.RESOLVE` stops on a short frame only. -/
theorem not_completes_arpAwaitReply {s : State} : ¬ Completes (arpAwaitReply s) ↔
    ∃ payload rest, s.env.arp.rx = .frame payload :: rest ∧ payload.length < 28 := by
  rcases arpAwaitReply_cases s with ⟨hrx, he⟩ | ⟨text, rx, hrx, he⟩ | ⟨payload, rx, hrx, hlt, he⟩ |
    ⟨payload, rx, hrx, hge, he⟩
  · exact iff_of_false (not_not_intro ⟨_, he⟩) (by simp [hrx])
  · exact iff_of_false (not_not_intro ⟨_, he⟩) (by simp [hrx])
  · exact iff_of_true (he ▸ not_completes_fault _) ⟨payload, rx, hrx, hlt⟩
  · exact iff_of_false (not_not_intro ⟨_, he⟩) (by simp [hrx, hge])

/-- `ARP.RESOLVE` stops when its request is accepted and a short frame is there (R138). -/
theorem not_completes_arpResolve (remoteIp : Bytes4) (localMac : Bytes6) (localIp : Bytes4) (iface : Text) (s : State) :
    ¬ Completes (exec (.arpResolve remoteIp localMac localIp iface) s) ↔ s.env.arp.txAnswers.head?.join = none ∧
      ∃ payload rest, s.env.arp.rx = .frame payload :: rest ∧ payload.length < 28 := by
  rcases exec_arpResolve_cases remoteIp localMac localIp iface s with ⟨text, answers, htx, he⟩ | ⟨htx, he⟩
  · exact iff_of_false (not_not_intro ⟨_, he⟩) (by simp [htx])
  · rw [he, not_completes_arpAwaitReply]
    exact (and_iff_right htx).symm

end Sys2Proof.Machine
end

section
/-! PROOFS. The statements of 60_exceptions.md. -/

namespace Sys2Proof.Proofs

open Sys2Proof Sys2Proof.Machine Sys2Proof.Safety

/-- Settles O4: the delimiter count is looked at first (`addrOfText_of_wrong_count`). -/
theorem fromStrReportsWrongDelimiterCount : Obligations.FromStrReportsWrongDelimiterCount := fun _ _ s h =>
  exec_addrFromStr_of_error s (addrOfText_of_wrong_count h)

/-- Settles O6: the parts are split off again, since none holds a delimiter, and the first bad one ends the reading. -/
theorem fromStrReportsLeftmostBadPart : Obligations.FromStrReportsLeftmostBadPart :=
  fun _ _ _ s hn hdelim hgood hi hbad => exec_addrFromStr_of_error s (addrOfText_of_bad_part hn hdelim hi hgood hbad)

/-- Settles O18: a failed `send` ends the operation, and otherwise the receive decides, from the state after the request was
sent or from the state of the wait. -/
theorem resolveReportsTransportErrors : Obligations.ResolveReportsTransportErrors := by
  intro remoteIp localMac localIp iface s
  refine ⟨fun text answers htx => exec_arpResolve_of_send_failure remoteIp localMac localIp iface htx,
    fun text rest htx hrx => ?_, fun payload rest htx hrx hp => ?_, fun text rest ha hrx => ?_,
    fun payload rest ha hrx hp => ?_⟩
  · rw [exec_arpResolve_of_accepted remoteIp localMac localIp iface htx]
    exact arpAwaitReply_of_failure hrx
  · rw [exec_arpResolve_of_accepted remoteIp localMac localIp iface htx]
    exact arpAwaitReply_of_short_frame hrx hp
  · rw [step_of_waiting ha]
    exact arpAwaitReply_of_failure hrx
  · rw [step_of_waiting ha]
    exact arpAwaitReply_of_short_frame hrx hp

/-- Settles O49: no operation that writes a counter reports an error, and an error is reported by writing the response. -/
theorem errorsArePrecise : Obligations.ErrorsArePrecise := fun _ _ _ _ h ht =>
  ⟨exec_next_error_tcb h ht, fun hr => exec_next_error_eq_reported hr h ht⟩

/-- Settles O50, in the three cases of `exec_next_error_cases`. -/
theorem errorsOnlyFromListedOperations : Obligations.ErrorsOnlyFromListedOperations := by
  intro i s t e h ht
  rcases exec_next_error_cases h ht with ⟨kind, text, rfl, ha⟩ | ⟨b, hb, rfl, hi⟩ | ⟨hr, text, rfl⟩
  · rcases addrOfText_eq_error ha with ⟨found, rfl⟩ | ⟨index, rfl⟩
    · exact ⟨kind, text, rfl⟩
    · exact ⟨kind, text, rfl⟩
  · exact ⟨hb, b, rfl, hi⟩
  · exact hr

/-- Settles O51: each operation of the list stops in its own case only, and every other operation completes. -/
theorem stopsExactlyInTheListedCases : Obligations.StopsExactlyInTheListedCases := by
  intro i s
  cases i with
  | arpParse b => simp [not_completes_arpParse, isResolve]
  | ipParse b => simp [not_completes_ipParse, isResolve]
  | ipBuild protocol srcIp dstIp body => simp [not_completes_ipBuild, isResolve]
  | tcpNewAuto => simp [not_completes_tcpNewAuto, isResolve]
  | tcbSend => simp [not_completes_tcbSend, isResolve]
  | cksum16 b => simp [not_completes_cksum16, isResolve]
  | arpResolve => simp [not_completes_arpResolve, isResolve]
  | addrFromStr kind text => exact iff_of_false (not_not_intro (completes_addrFromStr s kind text)) (by simp [isResolve])
  | tcpParse b => exact iff_of_false (not_not_intro (completes_tcpParse s b)) (by simp [isResolve])
  | _ => exact iff_of_false (not_not_intro ⟨_, rfl⟩) (by simp [isResolve])

/-- Settles O24: a buffer of 20 bytes or more, or `ARP.PARSE`, is no case of `errorsOnlyFromListedOperations`. -/
theorem sizeErrorExactlyBelowTwentyBytes : Obligations.SizeErrorExactlyBelowTwentyBytes := by
  refine ⟨fun b s h => ⟨exec_ipParse_of_short s h, exec_tcpParse_of_short s h⟩,
    fun b s t n hb => ⟨fun h ht => ?_, fun h ht => ?_⟩, fun b s t n h ht => ?_⟩
  · obtain ⟨hn, _, hlen, hi | hi⟩ := errorsOnlyFromListedOperations _ s t _ h ht <;> cases hi
    omega
  · obtain ⟨hn, _, hlen, hi | hi⟩ := errorsOnlyFromListedOperations _ s t _ h ht <;> cases hi
    omega
  · obtain ⟨-, _, -, hi | hi⟩ := errorsOnlyFromListedOperations _ s t _ h ht <;> cases hi

end Sys2Proof.Proofs
end

section
/-! PROOFS. The parts of the state after power-on (70_reset_and_hazards.md R270). -/

namespace Sys2Proof.Machine

open Sys2Proof Sys2Proof.Safety

section resetAt
variable (tUs : Nat)

@[simp] theorem resetAt_tcb : (State.resetAt tUs).tcb = initTcb tUs := rfl
@[simp] theorem resetAt_response : (State.resetAt tUs).response = none := rfl
@[simp] theorem resetAt_awaitingArp : (State.resetAt tUs).awaitingArp = false := rfl
@[simp] theorem resetAt_program : (State.resetAt tUs).program = [] := rfl
@[simp] theorem resetAt_clock : (State.resetAt tUs).env.clock = tUs := rfl
@[simp] theorem resetAt_arp_sent : (State.resetAt tUs).env.arp.sent = [] := rfl

end resetAt

/-- `TCB.INIT` completes from every state and writes the counters of power-on at its time (R42, R211). -/
theorem exec_tcbInit_eq_resetAt (tUs : Nat) (s : State) :
    exec (.tcbInit tUs) s = .next (delivered { s with tcb := (State.resetAt tUs).tcb } .unit) := by
  rw [resetAt_tcb]
  exact reply_eq .unit { s with tcb := initTcb tUs }

/-- The counters of `TCB.INIT` are short, no operation is in progress after power-on, and no frame has been sent. -/
theorem resetAt_inv (tUs : Nat) : Inv (State.resetAt tUs) := by
  refine inv_iff.2 ⟨initTcb_short tUs, fun _ => resetAt_response tUs, ?_⟩
  rw [resetAt_arp_sent]
  exact List.forall_mem_nil _

end Sys2Proof.Machine
end

section
/-! PROOFS. The statements of 70_reset_and_hazards.md. -/

namespace Sys2Proof.Proofs

open Sys2Proof Sys2Proof.Machine Sys2Proof.Safety

/-- Settles O53, by `resetAt_inv`. -/
theorem resetMeetsInvariant : Obligations.ResetMeetsInvariant := resetAt_inv

/-- Settles O52: the ten counters are those of `initTcb`, and `TCB.INIT` writes them from any state. -/
theorem resetIsOneTcbInit : Obligations.ResetIsOneTcbInit :=
  ⟨rfl, fun tUs => ⟨resetAt_tcb tUs, resetAt_response tUs, resetAt_awaitingArp tUs, resetAt_program tUs, resetAt_clock tUs,
    exec_tcbInit_eq_resetAt tUs⟩⟩

end Sys2Proof.Proofs
end
